-- ==== Sys2Proof/Word.lean ====
section
/-! DEFINITION. The machine words of OOKMOD-1 (00_scope.md rule R8). -/

namespace Sys2Proof

/-- A control register, a descriptor, a `u32` (00_scope.md rules R7, R8). -/
abbrev Word := BitVec 32

/-- A `u8` of the channel, or an `i8` read as two's complement (00_scope.md rule R8). -/
abbrev Byte := BitVec 8

end Sys2Proof
end

