-- ==== Sys2Proof/Config.lean ====
section
/-! DEFINITION. The implementation parameters of 00_scope.md rule R7. -/

namespace Sys2Proof

/-- The two parameters that the spec leaves open and hands to the model as arguments
(00_scope.md rule R7; 92_eei_decisions.md D4, D5). The state carries them, so a statement about every
state is a statement about every configuration. -/
structure Params where
  /-- `FIFO_LOG2`, the log2 of the channel's capacity. -/
  fifoLog2 : Nat
  /-- `LBUF_BYTES`, the size of the local bit buffer in bytes. -/
  lbufBytes : Nat
deriving DecidableEq, Repr

/-- The legal values of 00_scope.md rule R7: `FIFO_LOG2` in 1 to 16, `LBUF_BYTES` in 1 to 255. -/
abbrev Params.Legal (p : Params) : Prop :=
  1 ≤ p.fifoLog2 ∧ p.fifoLog2 ≤ 16 ∧ 1 ≤ p.lbufBytes ∧ p.lbufBytes ≤ 255

/-- The values of the spec's test vectors (00_scope.md rule R7: "vectors use 3", "vectors use 4").
DESIGN CHOICE (log entry 4), unsafe for a claim that leans on them: `State.reset` uses them. -/
def Params.vectors : Params := { fifoLog2 := 3, lbufBytes := 4 }

/-- `PHASE_BITS` (00_scope.md rule R7), read back in PARAMS. -/
def phaseBits : Nat := 32

/-- `LUT_BITS` (00_scope.md rule R7), read back in PARAMS. -/
def lutBits : Nat := 8

end Sys2Proof
end

