-- ==== Sys2Proof/Syntax.lean ====
section
/-! DEFINITION. The transactions of OOKMOD-1: one constructor of `Instr` for each row of
spec/opcode_table.json (30_encoding.md rule R79), and the raw form in which an agent presents one
(rule R70). -/

namespace Sys2Proof

/-- A transaction, its operand fields pulled out. `d` is the DATA word of a WR; a PUSH's LEN is the
length of `data` (30_encoding.md rule R72). -/
inductive Instr where
  /-- `WR.CMD.NOP`, 40_control_port.md rule R107. -/
  | wrCmdNop
  /-- `WR.CMD.OPEN`, rule R108. -/
  | wrCmdOpen
  /-- `WR.CMD.START`, rule R109. -/
  | wrCmdStart
  /-- `WR.CMD.STOP`, rule R110. -/
  | wrCmdStop
  /-- `WR.CMD.RESERVED`, rule R106: DATA is none of the four commands. -/
  | wrCmdReserved (d : Word)
  /-- `WR.STATUS`, rule R111. -/
  | wrStatus (d : Word)
  /-- `WR.IRQ_EN`, rule R112. -/
  | wrIrqEn (d : Word)
  /-- `WR.CONFIG`, rule R113. -/
  | wrConfig (d : Word)
  /-- `WR.SPB`, rule R114. -/
  | wrSpb (d : Word)
  /-- `WR.PHASE_INC`, rule R115. -/
  | wrPhaseInc (d : Word)
  /-- `WR.BLOCK`, rule R116. -/
  | wrBlock (d : Word)
  /-- `WR.PROGRESS`, rule R117. -/
  | wrProgress (d : Word)
  /-- `WR.PROG_SNAP`, rule R117. -/
  | wrProgSnap (d : Word)
  /-- `WR.FIFO_LEVEL`, rule R117. -/
  | wrFifoLevel (d : Word)
  /-- `WR.PARAMS`, rule R117. -/
  | wrParams (d : Word)
  /-- `WR.ERR_INFO`, rule R117. -/
  | wrErrInfo (d : Word)
  /-- `WR.INVALID`, rule R118: `off` is misaligned or unmapped. -/
  | wrInvalid (off : Byte) (d : Word)
  /-- `RD.CMD`, rule R93. -/
  | rdCmd
  /-- `RD.STATUS`, rule R94. -/
  | rdStatus
  /-- `RD.IRQ_EN`, rule R95. -/
  | rdIrqEn
  /-- `RD.CONFIG`, rule R96. -/
  | rdConfig
  /-- `RD.SPB`, rule R97. -/
  | rdSpb
  /-- `RD.PHASE_INC`, rule R98. -/
  | rdPhaseInc
  /-- `RD.BLOCK`, rule R99. -/
  | rdBlock
  /-- `RD.PROGRESS`, rule R100. -/
  | rdProgress
  /-- `RD.PROG_SNAP`, rule R101. -/
  | rdProgSnap
  /-- `RD.FIFO_LEVEL`, rule R102. -/
  | rdFifoLevel
  /-- `RD.PARAMS`, rule R103. -/
  | rdParams
  /-- `RD.ERR_INFO`, rule R104. -/
  | rdErrInfo
  /-- `RD.INVALID`, rule R105: `off` is misaligned or unmapped. -/
  | rdInvalid (off : Byte)
  /-- `PUSH` (LAST = 0), 41_producer_port.md rule R135. -/
  | push (tail : BitVec 3) (err : Bool) (data : List Byte)
  /-- `PUSH.LAST` (LAST = 1), 41_producer_port.md rule R136. -/
  | pushLast (tail : BitVec 3) (err : Bool) (data : List Byte)
  /-- `TICK`, 42_synthesizer.md rule R150. -/
  | tick
deriving DecidableEq, Repr

/-- The operand presented beside a descriptor: "an operand whose shape the descriptor fixes"
(30_encoding.md rule R70). -/
inductive Operand where
  /-- No operand: RD and TICK. -/
  | none
  /-- The 32-bit DATA word of a WR. -/
  | word (d : Word)
  /-- The data bytes of a PUSH, in stream order (30_encoding.md rule R72). -/
  | bytes (bs : List Byte)
deriving DecidableEq, Repr

/-- What an agent presents to the block: a descriptor and an operand (30_encoding.md rule R70). -/
structure Txn where
  desc : Word
  operand : Operand
deriving DecidableEq, Repr

/-- Why a presented descriptor spells no transaction (30_encoding.md rule R78). -/
inductive Reject where
  /-- CLASS is `0000` or `0101` to `1111`. -/
  | reservedClass
  /-- A must-be-zero field is nonzero. -/
  | mbzNonzero
  /-- The operand has not the shape that the descriptor's format fixes (rule R70; log entry 8). -/
  | operandShape
  /-- A PUSH whose data length differs from LEN. -/
  | lengthMismatch
deriving DecidableEq, Repr

end Sys2Proof
end

