-- ==== Sys2Proof/Machine/State.lean ====
section
/-! DEFINITION. The state of OOKMOD-1 (10_state.md), as plain data, and the state after reset
(10_state.md rule R35, 70_reset_and_hazards.md rule R201). -/

namespace Sys2Proof.Machine

/-- A byte storage of the block, `fifo.mem` or `syn.lbuf`: the (index, byte) cells whose byte is not
0x00, indices strictly rising (`Memory.wf` in Machine/Ops.lean). An unlisted index reads 0x00, the
spec's reset and flush contents (10_state.md rules R22, R25; 20_memory.md rules R53, R56). -/
abbrev Memory := List Host.Cell

/-- A Cursor (10_state.md rule R13). -/
structure Cursor where
  index : Word
  total : Word
deriving DecidableEq, Repr

/-- The channel record `fifo` (10_state.md rule R22). -/
structure Fifo where
  /-- `fifo.mem`, the ring storage. -/
  mem : Memory
  /-- `fifo.rd`, the next byte the consumer reads; below the capacity in every reachable state. -/
  rd : Nat
  /-- `fifo.count`, the occupied bytes; at most the capacity in every reachable state. -/
  count : Nat
  /-- `fifo.open`. -/
  isOpen : Bool
  /-- `fifo.eos`. -/
  eos : Bool
  /-- `fifo.tail`, valid bits in the stream's final byte; 0 means all 8. -/
  tail : BitVec 3
deriving DecidableEq, Repr

/-- A push request (10_state.md rule R24); its `len` is the length of `data` (log entry 9). -/
structure PushReq where
  last : Bool
  err : Bool
  tail : BitVec 3
  data : List Byte
deriving DecidableEq, Repr

/-- The producer-port record `prd` (10_state.md rule R24). -/
structure Prd where
  /-- `prd.pending`, the one issued push not yet answered. -/
  pending : Option PushReq
deriving DecidableEq, Repr

/-- The three values of `syn.state` (10_state.md rule R26). -/
inductive SynState where
  /-- Not transmitting: reset, or after STOP. -/
  | idle
  /-- Transmitting: after START. -/
  | running
  /-- Transmission complete. -/
  | done
deriving DecidableEq, Repr

/-- The synthesizer record `syn` (10_state.md rule R25). -/
structure Syn where
  state : SynState
  /-- `syn.bs`: samples of the current bit already emitted. -/
  bs : Cursor
  /-- `syn.bc`: position within the local bit buffer. -/
  bc : Cursor
  /-- `syn.cur_bit`, the carrier envelope. -/
  curBit : Bool
  /-- `syn.lbuf`, the local bit buffer. -/
  lbuf : Memory
  /-- `syn.phase`, the phase accumulator. -/
  phase : Word
  /-- `syn.blk`, running ticks since the last progress event. -/
  blk : Word
  /-- `syn.starved`. -/
  starved : Bool
deriving DecidableEq, Repr

/-- The five implemented bits of `reg.irq_en`, positions 1, 2, 8, 9, 10 in this order
(10_state.md rule R27). -/
structure IrqEn where
  done : Bool
  prog : Bool
  rdErr : Bool
  cmdErr : Bool
  accErr : Bool
deriving DecidableEq, Repr

/-- The control-register record `reg` (10_state.md rule R27). -/
structure Reg where
  done : Bool
  prog : Bool
  rdErr : Bool
  cmdErr : Bool
  accErr : Bool
  irqEn : IrqEn
  /-- `reg.starve_policy`: false is END, true is WAIT (42_synthesizer.md rule R155). -/
  starvePolicy : Bool
  spb : Word
  phaseInc : Word
  block : Word
  progress : Word
  progSnap : Word
  errCode : BitVec 4
  errOff : Byte
deriving DecidableEq, Repr

/-- A producer-port response (30_encoding.md rule R76); CODE `11` is never produced. -/
inductive Response where
  | accept (count : BitVec 16)
  | term
  | proto
deriving DecidableEq, Repr

/-- One record of the sample output port (10_state.md rule R33). -/
structure Sample where
  i : Byte
  q : Byte
  active : Bool
deriving DecidableEq, Repr

/-- What the block puts on one of its ports in a step. -/
inductive Obs where
  /-- The word an RD returns (40_control_port.md rule R90). -/
  | read (v : Word)
  /-- A response on the producer port (30_encoding.md rule R76). -/
  | response (r : Response)
  /-- A record on the sample output port (10_state.md rule R33). -/
  | sample (x : Sample)
deriving DecidableEq, Repr

/-- A step that an agent outside the synthesizer's own rules brings about (10_state.md rule R19,
70_reset_and_hazards.md rule R200). -/
inductive Event where
  /-- CTL, PRD or the sample clock presents a transaction. -/
  | txn (t : Txn)
  /-- CH performs the pending push (41_producer_port.md rule R133). -/
  | perform
  /-- The reset input. -/
  | reset
deriving DecidableEq, Repr

/-- The whole machine. `params` are the model's arguments (00_scope.md rule R7); `fifo`, `prd`, `syn`
and `reg` are the spec's records (00_scope.md rule R10); `inbox` and `trace` are the model's own: the
interleaving still to come (log entry 1) and what the ports have shown, oldest first (log entry 3). -/
structure State where
  params : Params
  fifo : Fifo
  prd : Prd
  syn : Syn
  reg : Reg
  inbox : List Event
  trace : List Obs
deriving DecidableEq, Repr

/-- Why the machine stops with a fault. -/
inductive Fault where
  /-- Raised by TICK when the bit to load lies past the end of the local bit buffer, an index that
  42_synthesizer.md rule R154 excludes. Safe: no reachable state asks for it (log entry 7). -/
  | lbufIndex
deriving DecidableEq, Repr

/-- Why the machine gives a presented form no meaning. -/
inductive Refusal where
  /-- An arm of `exec` with no meaning yet. Safe; no arm raises it. -/
  | notModelled (mnemonic : String)
  /-- Raised by `step` when the presented descriptor spells no transaction: "the model refuses it by
  name, and it has no step and changes no state" (30_encoding.md rule R78). Safe. -/
  | noTransaction (why : Reject)
  /-- Raised by a meaning applied to a term of `Instr` that is not well formed, which no descriptor
  decodes to (30_encoding.md rule R79). Safe (log entry 10). -/
  | illFormed
deriving DecidableEq, Repr

/-- `reset(c)` gives this Cursor: "zero both fields" (10_state.md rule R14). -/
def Cursor.zero : Cursor := { index := 0#32, total := 0#32 }

/-- The reset value of `fifo` (10_state.md rule R22). -/
def Fifo.initial : Fifo :=
  { mem := [], rd := 0, count := 0, isOpen := false, eos := false, tail := 0#3 }

/-- The reset value of `syn` (10_state.md rule R25). -/
def Syn.initial : Syn :=
  { state := .idle, bs := Cursor.zero, bc := Cursor.zero, curBit := false, lbuf := [],
    phase := 0#32, blk := 0#32, starved := false }

/-- The reset value of `reg` (10_state.md rule R27). -/
def Reg.initial : Reg :=
  { done := false, prog := false, rdErr := false, cmdErr := false, accErr := false
    irqEn := { done := false, prog := false, rdErr := false, cmdErr := false, accErr := false }
    starvePolicy := false, spb := 0#32, phaseInc := 0#32, block := 0#32
    progress := 0#32, progSnap := 0#32, errCode := 0#4, errOff := 0#8 }

/-- The machine right after reset, for any parameters (10_state.md rule R35): nothing presented yet and
nothing shown yet. -/
def State.resetWith (p : Params) : State :=
  { params := p, fifo := Fifo.initial, prd := { pending := none }, syn := Syn.initial
    reg := Reg.initial, inbox := [], trace := [] }

/-- The machine right after reset, with the parameters of the spec's vectors (log entry 4). -/
def State.reset : State := State.resetWith Params.vectors

end Sys2Proof.Machine
end

