-- ==== Sys2Proof/Machine/Ops.lean ====
section
/-! DEFINITION. The named operations over the state: byte storage, Cursors (10_state.md rules R14 to
R18), the channel's quantities and primitives (R23; 20_memory.md rules R54 to R56), answering a port,
and taking and clearing an error (60_exceptions.md rules R181, R185). -/

namespace Sys2Proof.Machine

/-! ### Byte storage -/

/-- What an index that is not listed reads as: the reset and flush contents (10_state.md rule R22,
20_memory.md rules R53, R56). -/
def Memory.blank : Byte := 0x00#8

/-- The byte at an index. -/
def Memory.read : Memory → Nat → Byte
  | [], _ => Memory.blank
  | (a, b) :: m, k => if k = a then b else Memory.read m k

/-- Store a byte at an index; storing the blank byte takes the cell out. -/
def Memory.write : Memory → Nat → Byte → Memory
  | [], k, v => if v = Memory.blank then [] else [(k, v)]
  | (a, b) :: m, k, v =>
    if k < a then (if v = Memory.blank then (a, b) :: m else (k, v) :: (a, b) :: m)
    else if k = a then (if v = Memory.blank then m else (k, v) :: m)
    else (a, b) :: Memory.write m k v

/-- Store bytes at consecutive indices, the first at `a`. -/
def Memory.writeBytes : Memory → Nat → List Byte → Memory
  | m, _, [] => m
  | m, a, b :: bs => Memory.writeBytes (Memory.write m a b) (a + 1) bs

/-- The `n` bytes from index `a` on. -/
def Memory.readBytes (m : Memory) : Nat → Nat → List Byte
  | _, 0 => []
  | a, n + 1 => m.read a :: Memory.readBytes m (a + 1) n

/-- The canonical form from index `lo` on: indices strictly rising, no blank byte listed. -/
def Memory.wfFrom : Nat → Memory → Bool
  | _, [] => true
  | lo, (a, b) :: m => decide (lo ≤ a) && (b != Memory.blank) && Memory.wfFrom (a + 1) m

/-- The canonical form: equal storages are equal lists. -/
def Memory.wf (m : Memory) : Bool := Memory.wfFrom 0 m

/-! ### Cursors -/

/-- `start_over(c)`: "zero index only, preserve total" (10_state.md rule R15). -/
def Cursor.startOver (c : Cursor) : Cursor := { c with index := 0#32 }

/-- `bump(c)`: the index plus 1, modulo 2^32 (10_state.md rule R16). -/
def Cursor.bump (c : Cursor) : Cursor := { c with index := c.index + 1#32 }

/-- `is_done(c)`: `index >= total`, unsigned (10_state.md rule R17). -/
def Cursor.isDone (c : Cursor) : Bool := decide (c.total ≤ c.index)

/-- `is_last(c)`: `index == total - 1` modulo 2^32, or done (10_state.md rule R18). -/
def Cursor.isLast (c : Cursor) : Bool := decide (c.index = c.total - 1#32) || c.isDone

/-! ### The channel's derived quantities (10_state.md rule R23) -/

/-- The channel's capacity `C = 2^FIFO_LOG2` (00_scope.md rule R7). -/
def State.cap (s : State) : Nat := 2 ^ s.params.fifoLog2

/-- `wr`, the next slot the producer writes. -/
def State.wr (s : State) : Nat := (s.fifo.rd + s.fifo.count) % s.cap

/-- `free_run`, the contiguous free bytes from `wr`. -/
def State.freeRun (s : State) : Nat := min (s.cap - s.fifo.count) (s.cap - s.wr)

/-- `data_run`, the contiguous stored bytes from `rd`. -/
def State.dataRun (s : State) : Nat := min s.fifo.count (s.cap - s.fifo.rd)

/-- The output signal `space_avail` (also 41_producer_port.md rule R130). -/
def State.spaceAvail (s : State) : Bool := decide (s.fifo.count < s.cap)

/-- The output signal `data_avail` (also 41_producer_port.md rule R130). -/
def State.dataAvail (s : State) : Bool := decide (0 < s.fifo.count)

/-! ### The channel's primitives -/

/-- The bytes that `FifoRead(n)` returns (20_memory.md rule R54). -/
def fifoPeek (n : Nat) (s : State) : List Byte := s.fifo.mem.readBytes s.fifo.rd n

/-- The state that `FifoRead(n)` leaves (20_memory.md rule R54); its caller keeps `n` at most
`data_run`. -/
def fifoDrop (n : Nat) (s : State) : State :=
  { s with fifo := { s.fifo with rd := (s.fifo.rd + n) % s.cap, count := s.fifo.count - n } }

/-- `FifoWrite(bs)` (20_memory.md rule R55); its caller keeps the length at most `free_run`. -/
def fifoWrite (bs : List Byte) (s : State) : State :=
  { s with fifo := { s.fifo with mem := s.fifo.mem.writeBytes s.wr bs, count := s.fifo.count + bs.length } }

/-- `flush()` (20_memory.md rule R56). -/
def flush (s : State) : State :=
  { s with fifo := { s.fifo with mem := [], rd := 0, count := 0, eos := false, tail := 0#3 } }

/-! ### Answering -/

/-- Put one observation on the ports' record. -/
def observe (o : Obs) (s : State) : State := { s with trace := s.trace ++ [o] }

/-- `respond r` (00_scope.md rule R9): one response on the producer port. -/
def respond (r : Response) (s : State) : State := observe (.response r) s

/-- `emit (I, Q, active)` (00_scope.md rule R9): one record on the sample output port. -/
def emit (x : Sample) (s : State) : State := observe (.sample x) s

/-- Answer a pending push with TERM: the first lines of OPEN, STOP and reset (40_control_port.md rules
R108, R110; 70_reset_and_hazards.md rule R201). -/
def terminatePending (s : State) : State :=
  match s.prd.pending with
  | none => s
  | some _ => { respond .term s with prd := { pending := none } }

/-! ### Taking an error, and clearing it -/

/-- The causes of CMD_ERR (60_exceptions.md rule R180). -/
inductive CmdCause where
  | cmdReserved
  | startRunning
  | startClosed
  | startSpb0
  | openRunning
deriving DecidableEq, Repr

/-- The causes of ACC_ERR (60_exceptions.md rule R180). -/
inductive AccCause where
  | misaligned
  | unmapped
  | roWrite
  | cfgRunning
deriving DecidableEq, Repr

/-- The code recorded for a cause of CMD_ERR (60_exceptions.md rule R180). -/
def cmdCode : CmdCause → BitVec 4
  | .cmdReserved => 1#4
  | .startRunning => 2#4
  | .startClosed => 3#4
  | .startSpb0 => 4#4
  | .openRunning => 5#4

/-- The code recorded for a cause of ACC_ERR (60_exceptions.md rule R180). -/
def accCode : AccCause → BitVec 4
  | .misaligned => 8#4
  | .unmapped => 9#4
  | .roWrite => 10#4
  | .cfgRunning => 11#4

/-- `raise CMD_ERR(code)`: the sticky bit, the code, offset 0x00, and no other effect
(60_exceptions.md rules R181, R184). -/
def raiseCmdErr (c : CmdCause) (s : State) : State :=
  { s with reg := { s.reg with cmdErr := true, errCode := cmdCode c, errOff := 0x00#8 } }

/-- `raise ACC_ERR(code, off)`: the sticky bit, the code, the offset, and no other effect
(60_exceptions.md rules R181, R184). -/
def raiseAccErr (c : AccCause) (off : Byte) (s : State) : State :=
  { s with reg := { s.reg with accErr := true, errCode := accCode c, errOff := off } }

/-- Clear the sticky bits whose DATA bit is 1, the return from an error or event
(40_control_port.md rule R111, 60_exceptions.md rule R185). -/
def ackStatus (d : Word) (s : State) : State :=
  { s with reg := { s.reg with
      done := s.reg.done && !d.getLsbD 1
      prog := s.reg.prog && !d.getLsbD 2
      rdErr := s.reg.rdErr && !d.getLsbD 8
      cmdErr := s.reg.cmdErr && !d.getLsbD 9
      accErr := s.reg.accErr && !d.getLsbD 10 } }

/-! ### Reset -/

/-- The reset step (70_reset_and_hazards.md rules R200, R201): a pending push is answered TERM, then
every field takes its reset value. The parameters, the steps still to come and the record of the
ports are not the block's registers and stay. -/
def resetBlock (s : State) : State :=
  { State.resetWith s.params with inbox := s.inbox, trace := (terminatePending s).trace }

end Sys2Proof.Machine
end

