-- ==== Sys2Proof/Machine/Flags.lean ====
section
/-! DEFINITION. The words composed from state when they are read: STATUS (10_state.md rule R28), the
interrupt line (R29), ERR_INFO (R30), PARAMS (R31), IRQ_EN and CONFIG (40_control_port.md rules R95,
R96); and the hold of a push, which STATUS shows (41_producer_port.md rules R132, R134). -/

namespace Sys2Proof.Machine

/-- The protocol predicate `proto(req)` (41_producer_port.md rule R132). -/
def proto (r : PushReq) (s : State) : Bool :=
  s.fifo.eos
    || (!r.last && (r.tail != 0#3 || r.err))
    || (r.last && (r.data.length == 0) && r.tail != 0#3)

/-- `held(p)` for a request (41_producer_port.md rule R134). -/
def heldReq (r : PushReq) (s : State) : Bool :=
  s.fifo.isOpen && decide (0 < r.data.length) && !proto r s && decide (s.fifo.count = s.cap)

/-- `held(prd.pending)` (41_producer_port.md rule R134). -/
def held (s : State) : Bool :=
  match s.prd.pending with
  | none => false
  | some r => heldReq r s

/-- The interrupt line: the OR of the enabled pending sources (10_state.md rule R29,
60_exceptions.md rule R183). -/
def irq (s : State) : Bool :=
  (s.reg.done && s.reg.irqEn.done) || (s.reg.prog && s.reg.irqEn.prog)
    || (s.reg.rdErr && s.reg.irqEn.rdErr) || (s.reg.cmdErr && s.reg.irqEn.cmdErr)
    || (s.reg.accErr && s.reg.irqEn.accErr)

/-- `zext_32(b) << n` (00_scope.md rule R8). -/
def bitAt (b : Bool) (n : Nat) : Word := (BitVec.ofBool b).setWidth 32 <<< n

/-- The STATUS word (10_state.md rule R28, 40_control_port.md rule R94). -/
def statusWord (s : State) : Word :=
  bitAt (decide (s.syn.state = .running)) 0
    ||| bitAt s.reg.done 1
    ||| bitAt s.reg.prog 2
    ||| bitAt s.syn.starved 3
    ||| bitAt (decide (s.fifo.count = 0)) 4
    ||| bitAt (decide (s.fifo.count = s.cap)) 5
    ||| bitAt (held s) 6
    ||| bitAt s.fifo.eos 7
    ||| bitAt s.reg.rdErr 8
    ||| bitAt s.reg.cmdErr 9
    ||| bitAt s.reg.accErr 10
    ||| bitAt s.fifo.isOpen 11
    ||| bitAt (irq s) 12

/-- The IRQ_EN word: the enables at bits 1, 2, 8, 9, 10 (40_control_port.md rule R95). -/
def irqEnWord (e : IrqEn) : Word :=
  bitAt e.done 1 ||| bitAt e.prog 2 ||| bitAt e.rdErr 8 ||| bitAt e.cmdErr 9 ||| bitAt e.accErr 10

/-- The CONFIG word (40_control_port.md rule R96). -/
def configWord (s : State) : Word := bitAt s.reg.starvePolicy 0

/-- The FIFO_LEVEL word: `zext_32(fifo.count)` (40_control_port.md rule R102). -/
def fifoLevelWord (s : State) : Word := BitVec.ofNat 32 s.fifo.count

/-- The PARAMS word (10_state.md rule R31, 40_control_port.md rule R103). -/
def paramsWord (s : State) : Word :=
  BitVec.ofNat 8 phaseBits ++ BitVec.ofNat 8 lutBits ++ BitVec.ofNat 8 s.params.lbufBytes
    ++ 0#3 ++ BitVec.ofNat 5 s.params.fifoLog2

/-- The ERR_INFO word (10_state.md rule R30, 40_control_port.md rule R104). -/
def errInfoWord (s : State) : Word := 0#16 ++ s.reg.errOff ++ 0#4 ++ s.reg.errCode

end Sys2Proof.Machine
end

