-- ==== Sys2Proof/WellFormed.lean ====
section
/-! DEFINITION. Which terms of `Instr` are transactions of the spec: the selectors of
30_encoding.md rule R79. -/

namespace Sys2Proof

/-- The offset selects no mapped register: `OFF[1:0] != 0` or `OFF >= 0x30`
(30_encoding.md rule R79, 40_control_port.md rule R92). -/
def offsetInvalid (off : Byte) : Bool :=
  off.extractLsb' 0 2 != 0#2 || decide (0x30#8 ≤ off)

/-- The DATA word of a CMD write selects no command: `DATA[31:3] != 0` or `DATA[2:0] >= 4`
(40_control_port.md rule R106). -/
def commandReserved (d : Word) : Bool :=
  d.extractLsb' 3 29 != 0#29 || decide (4#3 ≤ d.extractLsb' 0 3)

/-- LEN is a 16-bit field: at most 65535 data bytes (30_encoding.md rule R72). -/
def pushLengthOk (data : List Byte) : Bool :=
  decide (data.length < 65536)

/-- The term is a transaction of spec/opcode_table.json (30_encoding.md rule R79). -/
def Instr.wf : Instr → Bool
  | .wrCmdNop => true
  | .wrCmdOpen => true
  | .wrCmdStart => true
  | .wrCmdStop => true
  | .wrCmdReserved d => commandReserved d
  | .wrStatus _ => true
  | .wrIrqEn _ => true
  | .wrConfig _ => true
  | .wrSpb _ => true
  | .wrPhaseInc _ => true
  | .wrBlock _ => true
  | .wrProgress _ => true
  | .wrProgSnap _ => true
  | .wrFifoLevel _ => true
  | .wrParams _ => true
  | .wrErrInfo _ => true
  | .wrInvalid off _ => offsetInvalid off
  | .rdCmd => true
  | .rdStatus => true
  | .rdIrqEn => true
  | .rdConfig => true
  | .rdSpb => true
  | .rdPhaseInc => true
  | .rdBlock => true
  | .rdProgress => true
  | .rdProgSnap => true
  | .rdFifoLevel => true
  | .rdParams => true
  | .rdErrInfo => true
  | .rdInvalid off => offsetInvalid off
  | .push _ _ data => pushLengthOk data
  | .pushLast _ _ data => pushLengthOk data
  | .tick => true

end Sys2Proof
end

