-- ==== Sys2Proof/Machine/Operands.lean ====
section
/-! DEFINITION. Operand and result forms: the offset check of an access (40_control_port.md rule R92),
the fields of DATA words (rules R112, R113), and the response and sample words (30_encoding.md rules
R76, R77). -/

namespace Sys2Proof.Machine

/-- The offset checks that every RD and WR makes, in their order: MISALIGNED, then UNMAPPED
(40_control_port.md rule R92, 60_exceptions.md rule R182). -/
def offsetCheck (off : Byte) : Option AccCause :=
  if off.extractLsb' 0 2 ≠ 0#2 then some .misaligned
  else if 0x30#8 ≤ off then some .unmapped
  else none

/-- The bits of DATA that a write to IRQ_EN keeps (40_control_port.md rule R112). -/
def irqEnOfData (d : Word) : IrqEn :=
  { done := d.getLsbD 1, prog := d.getLsbD 2, rdErr := d.getLsbD 8
    cmdErr := d.getLsbD 9, accErr := d.getLsbD 10 }

/-- STARVE_POLICY of a write to CONFIG: `DATA[0]` (40_control_port.md rule R113). -/
def starvePolicyOfData (d : Word) : Bool := d.getLsbD 0

/-- The producer-port response word: CODE in bits 31:30, COUNT in bits 15:0 (30_encoding.md rule
R76). -/
def responseWord : Response → Word
  | .accept n => 0#2 ++ 0#14 ++ n
  | .term => 1#2 ++ 0#30
  | .proto => 2#2 ++ 0#30

/-- The sample record as a word: I in bits 7:0, Q in bits 15:8, `active` in bit 16 (30_encoding.md rule
R77). -/
def sampleWord (x : Sample) : Word := 0#15 ++ BitVec.ofBool x.active ++ x.q ++ x.i

/-- An observation as the word that 30_encoding.md rules R70, R76 and R77 give it. -/
def obsWord : Obs → Word
  | .read v => v
  | .response r => responseWord r
  | .sample x => sampleWord x

end Sys2Proof.Machine
end

