-- ==== Sys2Proof/Machine/Command.lean ====
section
/-! DEFINITION. Writes to CMD: the four commands and the reserved values (40_control_port.md rules R106
to R110). -/

namespace Sys2Proof.Machine

/-- NOP (40_control_port.md rule R107). -/
def execWrCmdNop (s : State) : Host.Outcome State Fault Refusal := .next s

/-- The effect of an accepted OPEN (40_control_port.md rule R108). -/
def openChannel (s : State) : State :=
  let s1 := flush (terminatePending s)
  { s1 with fifo := { s1.fifo with isOpen := true } }

/-- OPEN (40_control_port.md rule R108). -/
def execWrCmdOpen (s : State) : Host.Outcome State Fault Refusal :=
  if s.syn.state = .running then .next (raiseCmdErr .openRunning s)
  else .next (openChannel s)

/-- The effect of an accepted START (40_control_port.md rule R109). -/
def startTransmission (s : State) : State :=
  { s with
    syn := { state := .running, bs := { index := s.reg.spb, total := s.reg.spb }, bc := Cursor.zero
             curBit := false, lbuf := [], phase := 0#32, blk := 0#32, starved := false }
    reg := { s.reg with progress := 0#32, progSnap := 0#32 } }

/-- START: the first failing condition, in the rule's order, refuses it (40_control_port.md rule
R109). -/
def execWrCmdStart (s : State) : Host.Outcome State Fault Refusal :=
  if s.syn.state = .running then .next (raiseCmdErr .startRunning s)
  else if s.fifo.isOpen = false then .next (raiseCmdErr .startClosed s)
  else if s.reg.spb = 0#32 then .next (raiseCmdErr .startSpb0 s)
  else .next (startTransmission s)

/-- The effect of STOP (40_control_port.md rule R110). -/
def stopTransmission (s : State) : State :=
  let s1 := flush (terminatePending s)
  { s1 with fifo := { s1.fifo with isOpen := false }, syn := Syn.initial }

/-- STOP (40_control_port.md rule R110). -/
def execWrCmdStop (s : State) : Host.Outcome State Fault Refusal := .next (stopTransmission s)

/-- A DATA word that selects no command (40_control_port.md rule R106). -/
def execWrCmdReserved (d : Word) (s : State) : Host.Outcome State Fault Refusal :=
  if commandReserved d then .next (raiseCmdErr .cmdReserved s) else .refused .illFormed

end Sys2Proof.Machine
end

