-- ==== Sys2Proof/Machine/Producer.lean ====
section
/-! DEFINITION. The producer port: push issue (41_producer_port.md rules R131, R135, R136) and push
perform (rules R132 to R134). -/

namespace Sys2Proof.Machine

/-- Push issue (41_producer_port.md rule R131): answered TERM at once while the channel is closed, else
pending. While another push is pending the producer has no issue step, so it waits and nothing
changes (log entry 6). -/
def issuePush (r : PushReq) (s : State) : Host.Outcome State Fault Refusal :=
  if pushLengthOk r.data = false then .refused .illFormed
  else if s.prd.pending.isSome then .next s
  else if s.fifo.isOpen = false then .next (respond .term s)
  else .next { s with prd := { pending := some r } }

/-- PUSH, LAST = 0 (41_producer_port.md rule R135). -/
def execPush (tail : BitVec 3) (err : Bool) (data : List Byte) (s : State) : Host.Outcome State Fault Refusal :=
  issuePush { last := false, err := err, tail := tail, data := data } s

/-- PUSH.LAST, LAST = 1 (41_producer_port.md rule R136). -/
def execPushLast (tail : BitVec 3) (err : Bool) (data : List Byte) (s : State) : Host.Outcome State Fault Refusal :=
  issuePush { last := true, err := err, tail := tail, data := data } s

/-- The producer's stream ends: EOS, TAIL, and RD_ERR if the Reader failed (41_producer_port.md rules
R133, R136). -/
def endStream (tail : BitVec 3) (err : Bool) (s : State) : State :=
  { s with fifo := { s.fifo with eos := true, tail := tail }
           reg := { s.reg with rdErr := s.reg.rdErr || err } }

/-- The part of `Perform()` after the request is taken off the port (41_producer_port.md rule R133). -/
def performReq (r : PushReq) (s : State) : State :=
  if proto r s then respond .proto s
  else if r.data.length = 0 then
    respond (.accept 0#16) (if r.last then endStream 0#3 r.err s else s)
  else
    let k := min r.data.length s.freeRun
    let s1 := fifoWrite (r.data.take k) s
    respond (.accept (BitVec.ofNat 16 k))
      (if r.last && decide (k = r.data.length) then endStream r.tail r.err s1 else s1)

/-- The perform step is enabled: a push is pending and not held (41_producer_port.md rules R133,
R134). -/
def performEnabled (s : State) : Bool := s.prd.pending.isSome && !held s

/-- `Perform()` (41_producer_port.md rule R133); nothing where it is not enabled. -/
def perform (s : State) : State :=
  match s.prd.pending with
  | none => s
  | some r => if held s then s else performReq r { s with prd := { pending := none } }

end Sys2Proof.Machine
end

