-- ==== Sys2Proof/Machine/RegRead.lean ====
section
/-! DEFINITION. Reads of the control registers (40_control_port.md rules R90, R93 to R105). -/

namespace Sys2Proof.Machine

/-- An RD of a mapped register returns one word and changes no state (40_control_port.md rule R90,
20_memory.md rule R60). -/
def answerRead (v : Word) (s : State) : Host.Outcome State Fault Refusal := .next (observe (.read v) s)

/-- CMD reads 0 (40_control_port.md rule R93). -/
def execRdCmd (s : State) : Host.Outcome State Fault Refusal := answerRead 0#32 s

/-- STATUS (40_control_port.md rule R94). -/
def execRdStatus (s : State) : Host.Outcome State Fault Refusal := answerRead (statusWord s) s

/-- IRQ_EN (40_control_port.md rule R95). -/
def execRdIrqEn (s : State) : Host.Outcome State Fault Refusal := answerRead (irqEnWord s.reg.irqEn) s

/-- CONFIG (40_control_port.md rule R96). -/
def execRdConfig (s : State) : Host.Outcome State Fault Refusal := answerRead (configWord s) s

/-- SPB (40_control_port.md rule R97). -/
def execRdSpb (s : State) : Host.Outcome State Fault Refusal := answerRead s.reg.spb s

/-- PHASE_INC (40_control_port.md rule R98). -/
def execRdPhaseInc (s : State) : Host.Outcome State Fault Refusal := answerRead s.reg.phaseInc s

/-- BLOCK (40_control_port.md rule R99). -/
def execRdBlock (s : State) : Host.Outcome State Fault Refusal := answerRead s.reg.block s

/-- PROGRESS, the live count (40_control_port.md rule R100). -/
def execRdProgress (s : State) : Host.Outcome State Fault Refusal := answerRead s.reg.progress s

/-- PROG_SNAP (40_control_port.md rule R101). -/
def execRdProgSnap (s : State) : Host.Outcome State Fault Refusal := answerRead s.reg.progSnap s

/-- FIFO_LEVEL (40_control_port.md rule R102). -/
def execRdFifoLevel (s : State) : Host.Outcome State Fault Refusal := answerRead (fifoLevelWord s) s

/-- PARAMS (40_control_port.md rule R103). -/
def execRdParams (s : State) : Host.Outcome State Fault Refusal := answerRead (paramsWord s) s

/-- ERR_INFO; reading does not clear it (40_control_port.md rule R104). -/
def execRdErrInfo (s : State) : Host.Outcome State Fault Refusal := answerRead (errInfoWord s) s

/-- A read at an invalid offset returns 0 and raises ACC_ERR (40_control_port.md rules R92, R105). -/
def execRdInvalid (off : Byte) (s : State) : Host.Outcome State Fault Refusal :=
  match offsetCheck off with
  | some c => .next (observe (.read 0#32) (raiseAccErr c off s))
  | none => .refused .illFormed

end Sys2Proof.Machine
end

