-- ==== Sys2Proof/Machine/RegWrite.lean ====
section
/-! DEFINITION. Writes to the other control registers (40_control_port.md rules R111 to R118). -/

namespace Sys2Proof.Machine

/-- STATUS, write one to clear (40_control_port.md rule R111). -/
def execWrStatus (d : Word) (s : State) : Host.Outcome State Fault Refusal := .next (ackStatus d s)

/-- IRQ_EN (40_control_port.md rule R112). -/
def execWrIrqEn (d : Word) (s : State) : Host.Outcome State Fault Refusal :=
  .next { s with reg := { s.reg with irqEn := irqEnOfData d } }

/-- A write of a configuration register: refused with ACC_ERR(CFG_RUNNING) while the synthesizer is
running (40_control_port.md rules R113 to R116). -/
def configWrite (off : Byte) (r : Reg) (s : State) : Host.Outcome State Fault Refusal :=
  if s.syn.state = .running then .next (raiseAccErr .cfgRunning off s)
  else .next { s with reg := r }

/-- CONFIG (40_control_port.md rule R113). -/
def execWrConfig (d : Word) (s : State) : Host.Outcome State Fault Refusal :=
  configWrite 0x0C#8 { s.reg with starvePolicy := starvePolicyOfData d } s

/-- SPB (40_control_port.md rule R114). -/
def execWrSpb (d : Word) (s : State) : Host.Outcome State Fault Refusal :=
  configWrite 0x10#8 { s.reg with spb := d } s

/-- PHASE_INC (40_control_port.md rule R115). -/
def execWrPhaseInc (d : Word) (s : State) : Host.Outcome State Fault Refusal :=
  configWrite 0x14#8 { s.reg with phaseInc := d } s

/-- BLOCK (40_control_port.md rule R116). -/
def execWrBlock (d : Word) (s : State) : Host.Outcome State Fault Refusal :=
  configWrite 0x18#8 { s.reg with block := d } s

/-- PROGRESS is read-only (40_control_port.md rule R117); DATA is not used. -/
def execWrProgress (_d : Word) (s : State) : Host.Outcome State Fault Refusal :=
  .next (raiseAccErr .roWrite 0x1C#8 s)

/-- PROG_SNAP is read-only (40_control_port.md rule R117); DATA is not used. -/
def execWrProgSnap (_d : Word) (s : State) : Host.Outcome State Fault Refusal :=
  .next (raiseAccErr .roWrite 0x20#8 s)

/-- FIFO_LEVEL is read-only (40_control_port.md rule R117); DATA is not used. -/
def execWrFifoLevel (_d : Word) (s : State) : Host.Outcome State Fault Refusal :=
  .next (raiseAccErr .roWrite 0x24#8 s)

/-- PARAMS is read-only (40_control_port.md rule R117); DATA is not used. -/
def execWrParams (_d : Word) (s : State) : Host.Outcome State Fault Refusal :=
  .next (raiseAccErr .roWrite 0x28#8 s)

/-- ERR_INFO is read-only (40_control_port.md rule R117); DATA is not used. -/
def execWrErrInfo (_d : Word) (s : State) : Host.Outcome State Fault Refusal :=
  .next (raiseAccErr .roWrite 0x2C#8 s)

/-- A write at an invalid offset (40_control_port.md rules R92, R118); DATA is not used. -/
def execWrInvalid (off : Byte) (_d : Word) (s : State) : Host.Outcome State Fault Refusal :=
  match offsetCheck off with
  | some c => .next (raiseAccErr c off s)
  | none => .refused .illFormed

end Sys2Proof.Machine
end

