-- ==== Sys2Proof/Machine/Synth.lean ====
section
/-! DEFINITION. The synthesizer's step, TICK (42_synthesizer.md rules R150 to R159). -/

namespace Sys2Proof.Machine

/-! ### Carrier and envelope (42_synthesizer.md rules R156, R157) -/

/-- The table index: the top 8 bits of the phase. -/
def phaseIndex (phase : Word) : Byte := phase.extractLsb' 24 8

/-- I: the table a quarter period ahead. -/
def carrierI (phase : Word) : Byte := lut (phaseIndex phase + 64#8)

/-- Q: the table at the index. -/
def carrierQ (phase : Word) : Byte := lut (phaseIndex phase)

/-- The record of silence: `(0, 0, active)`. -/
def silence (active : Bool) : Sample := { i := 0#8, q := 0#8, active := active }

/-- The record that `EmitCarrier(env)` emits at a phase (42_synthesizer.md rule R157). -/
def envelopeSample (env : Bool) (phase : Word) : Sample :=
  if env then { i := carrierI phase, q := carrierQ phase, active := true } else silence true

/-- `EmitCarrier(env)`: the record of this phase, and the phase advanced (42_synthesizer.md rules R156,
R157). -/
def emitCarrier (env : Bool) (s : State) : State :=
  emit (envelopeSample env s.syn.phase)
    { s with syn := { s.syn with phase := s.syn.phase + s.reg.phaseInc } }

/-! ### Completion and progress (42_synthesizer.md rules R155, R159) -/

/-- `Complete()` (42_synthesizer.md rule R155). -/
def complete (s : State) : State :=
  emit (silence false)
    { s with syn := { s.syn with state := .done }
             reg := { s.reg with done := true, progSnap := s.reg.progress } }

/-- `ProgressTick()` (42_synthesizer.md rule R159). -/
def progressTick (s : State) : State :=
  if s.reg.block = 0#32 then s
  else if s.syn.blk + 1#32 = s.reg.block then
    { s with syn := { s.syn with blk := 0#32 }
             reg := { s.reg with prog := true, progSnap := s.reg.progress } }
  else { s with syn := { s.syn with blk := s.syn.blk + 1#32 } }

/-! ### Refill and bit extraction (42_synthesizer.md rules R153, R154) -/

/-- `n` of `Refill()`: the bytes it takes (42_synthesizer.md rule R153). -/
def refillCount (s : State) : Nat := min s.params.lbufBytes s.dataRun

/-- `pad` of `Refill()`, tested on the state after the read: the padding bits of the stream's final
byte (42_synthesizer.md rule R153). -/
def padBits (s : State) : Nat :=
  if s.fifo.eos && decide (s.fifo.count = 0) && s.fifo.tail != 0#3 then 8 - s.fifo.tail.toNat else 0

/-- The state that `Refill()` leaves; its return value is `refillCount` of the state before
(42_synthesizer.md rule R153). -/
def refill (s : State) : State :=
  let n := refillCount s
  let b := fifoPeek n s
  let s1 := fifoDrop n s
  let s2 := { s1 with
    syn := { s1.syn with lbuf := s1.syn.lbuf.writeBytes 0 b }
    reg := { s1.reg with progress := s1.reg.progress + BitVec.ofNat 32 n } }
  if 0 < n then
    { s2 with syn := { s2.syn with
        bc := { index := 0#32, total := BitVec.ofNat 32 (8 * n - padBits s2) } } }
  else s2

/-- `LbufBit(j)`: bit `j` of the local buffer, each byte's most significant bit first
(42_synthesizer.md rule R154, 20_memory.md rule R57). -/
def lbufBit (j : Nat) (s : State) : Bool := (s.syn.lbuf.read (j / 8)).getLsbD (7 - j % 8)

/-! ### The running tick (42_synthesizer.md rule R152) -/

/-- What a running tick comes to before it emits. -/
inductive TickTurn where
  /-- A sample of a bit. -/
  | bit
  /-- `starved = 1`. -/
  | starved
  /-- `completed = 1`. -/
  | completed
deriving DecidableEq, Repr

/-- Load the bit at the bit cursor; this tick is its first sample (42_synthesizer.md rule R152). A bit
index past the local buffer is the one fault (log entry 7). -/
def loadBit (s : State) : Except Fault (TickTurn × State) :=
  if s.syn.bc.index.toNat < 8 * s.params.lbufBytes then
    .ok (.bit, { s with syn := { s.syn with
      curBit := lbufBit s.syn.bc.index.toNat s
      bs := s.syn.bs.startOver.bump } })
  else .error .lbufIndex

/-- The part of `RunningTick()` up to the emission (42_synthesizer.md rules R152, R155). -/
def tickAdvance (s : State) : Except Fault (TickTurn × State) :=
  if s.syn.bs.isDone then
    if s.syn.bc.isLast then
      if refillCount s = 0 then
        if s.reg.starvePolicy && !s.fifo.eos then .ok (.starved, refill s)
        else .ok (.completed, refill s)
      else loadBit (refill s)
    else loadBit { s with syn := { s.syn with bc := s.syn.bc.bump } }
  else .ok (.bit, { s with syn := { s.syn with bs := s.syn.bs.bump } })

/-- The emission of `RunningTick()` (42_synthesizer.md rules R152, R155, R157). -/
def tickEmit (turn : TickTurn) (s : State) : State :=
  let s1 := { s with syn := { s.syn with starved := decide (turn = .starved) } }
  if turn = .completed then complete s1
  else emitCarrier (s1.syn.curBit && decide (turn ≠ .starved)) s1

/-- `RunningTick()` (42_synthesizer.md rule R152). -/
def runningTick (s : State) : Host.Outcome State Fault Refusal :=
  match tickAdvance s with
  | .ok (turn, s1) => .next (progressTick (tickEmit turn s1))
  | .error f => .fault f

/-- `IdleTick()` (42_synthesizer.md rule R151). -/
def idleTick (s : State) : State := emit (silence false) s

/-- TICK (42_synthesizer.md rule R150). -/
def execTick (s : State) : Host.Outcome State Fault Refusal :=
  if s.syn.state = .running then runningTick s else .next (idleTick s)

end Sys2Proof.Machine
end

