-- ==== Sys2Proof/Machine/Dispatch.lean ====
section
/-! DEFINITION. One arm for each transaction of 30_encoding.md rule R79. -/

namespace Sys2Proof.Machine

def exec (i : Instr) (s : State) : Host.Outcome State Fault Refusal :=
  match i with
  | .wrCmdNop => Sys2Proof.Machine.execWrCmdNop s
  | .wrCmdOpen => Sys2Proof.Machine.execWrCmdOpen s
  | .wrCmdStart => Sys2Proof.Machine.execWrCmdStart s
  | .wrCmdStop => Sys2Proof.Machine.execWrCmdStop s
  | .wrCmdReserved d => Sys2Proof.Machine.execWrCmdReserved d s
  | .wrStatus d => Sys2Proof.Machine.execWrStatus d s
  | .wrIrqEn d => Sys2Proof.Machine.execWrIrqEn d s
  | .wrConfig d => Sys2Proof.Machine.execWrConfig d s
  | .wrSpb d => Sys2Proof.Machine.execWrSpb d s
  | .wrPhaseInc d => Sys2Proof.Machine.execWrPhaseInc d s
  | .wrBlock d => Sys2Proof.Machine.execWrBlock d s
  | .wrProgress d => Sys2Proof.Machine.execWrProgress d s
  | .wrProgSnap d => Sys2Proof.Machine.execWrProgSnap d s
  | .wrFifoLevel d => Sys2Proof.Machine.execWrFifoLevel d s
  | .wrParams d => Sys2Proof.Machine.execWrParams d s
  | .wrErrInfo d => Sys2Proof.Machine.execWrErrInfo d s
  | .wrInvalid off d => Sys2Proof.Machine.execWrInvalid off d s
  | .rdCmd => Sys2Proof.Machine.execRdCmd s
  | .rdStatus => Sys2Proof.Machine.execRdStatus s
  | .rdIrqEn => Sys2Proof.Machine.execRdIrqEn s
  | .rdConfig => Sys2Proof.Machine.execRdConfig s
  | .rdSpb => Sys2Proof.Machine.execRdSpb s
  | .rdPhaseInc => Sys2Proof.Machine.execRdPhaseInc s
  | .rdBlock => Sys2Proof.Machine.execRdBlock s
  | .rdProgress => Sys2Proof.Machine.execRdProgress s
  | .rdProgSnap => Sys2Proof.Machine.execRdProgSnap s
  | .rdFifoLevel => Sys2Proof.Machine.execRdFifoLevel s
  | .rdParams => Sys2Proof.Machine.execRdParams s
  | .rdErrInfo => Sys2Proof.Machine.execRdErrInfo s
  | .rdInvalid off => Sys2Proof.Machine.execRdInvalid off s
  | .push tail err data => Sys2Proof.Machine.execPush tail err data s
  | .pushLast tail err data => Sys2Proof.Machine.execPushLast tail err data s
  | .tick => Sys2Proof.Machine.execTick s

end Sys2Proof.Machine
end

