-- ==== Sys2Proof/Decode.lean ====
section
/-! DEFINITION. The decoder and the encoder of the transaction encoding (30_encoding.md rules R70 to
R73, R78, R79). `decode` is total: what spells no transaction is rejected by name. -/

namespace Sys2Proof

/-! ### Descriptor fields (30_encoding.md rules R71 to R73) -/

/-- CLASS, bits 31:28. -/
def descClass (desc : Word) : BitVec 4 := desc.extractLsb' 28 4

/-- OFF of a WR or RD, bits 7:0. -/
def descOff (desc : Word) : Byte := desc.extractLsb' 0 8

/-- MBZ of a WR or RD, bits 27:8. -/
def descAccessMbz (desc : Word) : BitVec 20 := desc.extractLsb' 8 20

/-- MBZ of a PUSH, bits 27:21. -/
def descPushMbz (desc : Word) : BitVec 7 := desc.extractLsb' 21 7

/-- MBZ of a TICK, bits 27:0. -/
def descTickMbz (desc : Word) : BitVec 28 := desc.extractLsb' 0 28

/-- TAIL of a PUSH, bits 20:18. -/
def descTail (desc : Word) : BitVec 3 := desc.extractLsb' 18 3

/-- ERR of a PUSH, bit 17. -/
def descErr (desc : Word) : Bool := desc.getLsbD 17

/-- LAST of a PUSH, bit 16. -/
def descLast (desc : Word) : Bool := desc.getLsbD 16

/-- LEN of a PUSH, bits 15:0. -/
def descLen (desc : Word) : BitVec 16 := desc.extractLsb' 0 16

/-! ### The decoder -/

/-- The CMD row that DATA selects (30_encoding.md rule R79, 40_control_port.md rule R106). -/
def decodeCommand (d : Word) : Instr :=
  if commandReserved d then .wrCmdReserved d
  else if d.extractLsb' 0 3 = 0#3 then .wrCmdNop
  else if d.extractLsb' 0 3 = 1#3 then .wrCmdOpen
  else if d.extractLsb' 0 3 = 2#3 then .wrCmdStart
  else .wrCmdStop

/-- The WR row that OFF selects (30_encoding.md rule R79; offsets of 20_memory.md rule R51). -/
def decodeWrite (off : Byte) (d : Word) : Instr :=
  if off = 0x00#8 then decodeCommand d
  else if off = 0x04#8 then .wrStatus d
  else if off = 0x08#8 then .wrIrqEn d
  else if off = 0x0C#8 then .wrConfig d
  else if off = 0x10#8 then .wrSpb d
  else if off = 0x14#8 then .wrPhaseInc d
  else if off = 0x18#8 then .wrBlock d
  else if off = 0x1C#8 then .wrProgress d
  else if off = 0x20#8 then .wrProgSnap d
  else if off = 0x24#8 then .wrFifoLevel d
  else if off = 0x28#8 then .wrParams d
  else if off = 0x2C#8 then .wrErrInfo d
  else .wrInvalid off d

/-- The RD row that OFF selects (30_encoding.md rule R79; offsets of 20_memory.md rule R51). -/
def decodeRead (off : Byte) : Instr :=
  if off = 0x00#8 then .rdCmd
  else if off = 0x04#8 then .rdStatus
  else if off = 0x08#8 then .rdIrqEn
  else if off = 0x0C#8 then .rdConfig
  else if off = 0x10#8 then .rdSpb
  else if off = 0x14#8 then .rdPhaseInc
  else if off = 0x18#8 then .rdBlock
  else if off = 0x1C#8 then .rdProgress
  else if off = 0x20#8 then .rdProgSnap
  else if off = 0x24#8 then .rdFifoLevel
  else if off = 0x28#8 then .rdParams
  else if off = 0x2C#8 then .rdErrInfo
  else .rdInvalid off

/-- Format WR: MBZ zero and a DATA word (30_encoding.md rules R70, R71, R78). -/
def decodeWrFormat (t : Txn) : Except Reject Instr :=
  if descAccessMbz t.desc ≠ 0#20 then .error .mbzNonzero
  else match t.operand with
    | .word d => .ok (decodeWrite (descOff t.desc) d)
    | .none => .error .operandShape
    | .bytes _ => .error .operandShape

/-- Format RD: MBZ zero and no operand (30_encoding.md rules R70, R71, R78). -/
def decodeRdFormat (t : Txn) : Except Reject Instr :=
  if descAccessMbz t.desc ≠ 0#20 then .error .mbzNonzero
  else match t.operand with
    | .none => .ok (decodeRead (descOff t.desc))
    | .word _ => .error .operandShape
    | .bytes _ => .error .operandShape

/-- Format PUSH: MBZ zero and exactly LEN data bytes (30_encoding.md rules R72, R78). -/
def decodePushFormat (t : Txn) : Except Reject Instr :=
  if descPushMbz t.desc ≠ 0#7 then .error .mbzNonzero
  else match t.operand with
    | .bytes bs =>
      if bs.length ≠ (descLen t.desc).toNat then .error .lengthMismatch
      else if descLast t.desc then .ok (.pushLast (descTail t.desc) (descErr t.desc) bs)
      else .ok (.push (descTail t.desc) (descErr t.desc) bs)
    | .none => .error .operandShape
    | .word _ => .error .operandShape

/-- Format TICK: MBZ zero and no operand (30_encoding.md rules R70, R73, R78). -/
def decodeTickFormat (t : Txn) : Except Reject Instr :=
  if descTickMbz t.desc ≠ 0#28 then .error .mbzNonzero
  else match t.operand with
    | .none => .ok .tick
    | .word _ => .error .operandShape
    | .bytes _ => .error .operandShape

/-- Decoding by CLASS, then by the format's fields (30_encoding.md rules R70, R78, R79). -/
def decode (t : Txn) : Except Reject Instr :=
  if descClass t.desc = 1#4 then decodeWrFormat t
  else if descClass t.desc = 2#4 then decodeRdFormat t
  else if descClass t.desc = 3#4 then decodePushFormat t
  else if descClass t.desc = 4#4 then decodeTickFormat t
  else .error .reservedClass

/-! ### The encoder -/

/-- The WR transaction at an offset: CLASS 1, MBZ 0, OFF (30_encoding.md rule R71). -/
def encodeWr (off : Byte) (d : Word) : Txn :=
  { desc := 1#4 ++ 0#20 ++ off, operand := .word d }

/-- The RD transaction at an offset: CLASS 2, MBZ 0, OFF (30_encoding.md rule R71). -/
def encodeRd (off : Byte) : Txn :=
  { desc := 2#4 ++ 0#20 ++ off, operand := .none }

/-- The PUSH transaction: CLASS 3, MBZ 0, TAIL, ERR, LAST, LEN (30_encoding.md rule R72). -/
def encodePush (last : Bool) (tail : BitVec 3) (err : Bool) (data : List Byte) : Txn :=
  { desc := 3#4 ++ 0#7 ++ tail ++ BitVec.ofBool err ++ BitVec.ofBool last ++ BitVec.ofNat 16 data.length
    operand := .bytes data }

/-- The words of a well-formed transaction (30_encoding.md rules R70 to R73, R79). -/
def encode : Instr → Txn
  | .wrCmdNop => encodeWr 0x00#8 0#32
  | .wrCmdOpen => encodeWr 0x00#8 1#32
  | .wrCmdStart => encodeWr 0x00#8 2#32
  | .wrCmdStop => encodeWr 0x00#8 3#32
  | .wrCmdReserved d => encodeWr 0x00#8 d
  | .wrStatus d => encodeWr 0x04#8 d
  | .wrIrqEn d => encodeWr 0x08#8 d
  | .wrConfig d => encodeWr 0x0C#8 d
  | .wrSpb d => encodeWr 0x10#8 d
  | .wrPhaseInc d => encodeWr 0x14#8 d
  | .wrBlock d => encodeWr 0x18#8 d
  | .wrProgress d => encodeWr 0x1C#8 d
  | .wrProgSnap d => encodeWr 0x20#8 d
  | .wrFifoLevel d => encodeWr 0x24#8 d
  | .wrParams d => encodeWr 0x28#8 d
  | .wrErrInfo d => encodeWr 0x2C#8 d
  | .wrInvalid off d => encodeWr off d
  | .rdCmd => encodeRd 0x00#8
  | .rdStatus => encodeRd 0x04#8
  | .rdIrqEn => encodeRd 0x08#8
  | .rdConfig => encodeRd 0x0C#8
  | .rdSpb => encodeRd 0x10#8
  | .rdPhaseInc => encodeRd 0x14#8
  | .rdBlock => encodeRd 0x18#8
  | .rdProgress => encodeRd 0x1C#8
  | .rdProgSnap => encodeRd 0x20#8
  | .rdFifoLevel => encodeRd 0x24#8
  | .rdParams => encodeRd 0x28#8
  | .rdErrInfo => encodeRd 0x2C#8
  | .rdInvalid off => encodeRd off
  | .push tail err data => encodePush false tail err data
  | .pushLast tail err data => encodePush true tail err data
  | .tick => { desc := 0x40000000#32, operand := .none }

/-! ### Transactions as one number, for the host's questions -/

/-- `n` bytes of a number, the lowest first: the data bytes of a PUSH lie above its descriptor, in
stream order. -/
def bytesOfNat : Nat → Nat → List Byte
  | 0, _ => []
  | n + 1, w => BitVec.ofNat 8 w :: bytesOfNat n (w >>> 8)

/-- The transaction whose bits are the low `nbits` bits of `w`, zeros above: the descriptor is bits
31:0, and the operand that the descriptor's CLASS fixes follows it, DATA in bits 63:32 or LEN bytes from
bit 32 on. -/
def txnOfBits (nbits w : Nat) : Txn :=
  let v := w % 2 ^ nbits
  let desc := BitVec.ofNat 32 v
  { desc := desc
    operand :=
      if descClass desc = 1#4 then .word (BitVec.ofNat 32 (v >>> 32))
      else if descClass desc = 3#4 then .bytes (bytesOfNat (descLen desc).toNat (v >>> 32))
      else .none }

/-- The instruction that the decoder reads from a transaction whose bits are `w`; none where it
rejects. -/
def decodeTableWord (nbits w : Nat) : Option Instr :=
  match decode (txnOfBits nbits w) with
  | .ok i => some i
  | .error _ => none

end Sys2Proof
end

