-- ==== Sys2Proof/Machine/Fetch.lean ====
section
/-! DEFINITION. Which step comes next: the first event of the inbox that is enabled (10_state.md rule
R19; log entry 1). -/

namespace Sys2Proof.Machine

/-- The presented descriptor is a push issue (30_encoding.md rule R79, 41_producer_port.md rule
R131). -/
def isPushTxn (t : Txn) : Bool :=
  match decode t with
  | .ok (.push _ _ _) => true
  | .ok (.pushLast _ _ _) => true
  | _ => false

/-- The event is enabled: a push issue only while no push is pending (41_producer_port.md rule R131),
perform only while a push is pending and not held (rules R133, R134), everything else always. -/
def eventEnabled (s : State) : Event → Bool
  | .txn t => !isPushTxn t || s.prd.pending.isNone
  | .perform => performEnabled s
  | .reset => true

/-- The first enabled event of a list, and the others in their order. -/
def takeEvent (enabled : Event → Bool) : List Event → Option (Event × List Event)
  | [] => none
  | e :: es =>
    if enabled e then some (e, es)
    else match takeEvent enabled es with
      | none => none
      | some (x, rest) => some (x, e :: rest)

/-- The next event, and the state with it taken from the inbox. -/
def nextEvent (s : State) : Option (Event × State) :=
  match takeEvent (eventEnabled s) s.inbox with
  | none => none
  | some (e, rest) => some (e, { s with inbox := rest })

end Sys2Proof.Machine
end

