-- ==== Sys2Proof/Machine/Step.lean ====
section
/-! DEFINITION. One step of the machine: one agent takes one atomic step (10_state.md rule R19,
20_memory.md rules R60, R62). -/

namespace Sys2Proof.Machine

/-- One step. A presented transaction is decoded and executed, or refused if its descriptor spells none
(30_encoding.md rule R78); `perform` and `reset` are steps of the block itself (41_producer_port.md
rule R133, 70_reset_and_hazards.md rule R200). With nothing enabled no agent moves and the state
stays (log entry 2). -/
def step (s : State) : Host.Outcome State Fault Refusal :=
  match nextEvent s with
  | none => .next s
  | some (.perform, s1) => .next (perform s1)
  | some (.reset, s1) => .next (resetBlock s1)
  | some (.txn t, s1) =>
    match decode t with
    | .ok i => exec i s1
    | .error e => .refused (.noTransaction e)

/-- The state with the transaction of the given bits presented next: first in the inbox. -/
def State.withFetchWord (s : State) (nbits w : Nat) : State :=
  { s with inbox := .txn (txnOfBits nbits w) :: s.inbox }

end Sys2Proof.Machine
end

