-- ==== Sys2Proof/Safety.lean ====
section
/-! DEFINITION. The terms that claims use: the invariant of the machine, what counts as a safe step, the
byte stream the channel holds, and runs of ticks and of steps. -/

namespace Sys2Proof.Machine

/-! ### The invariant -/

/-- Every listed index of a storage is below `n`. -/
abbrev Memory.Within (n : Nat) (m : Memory) : Prop := ∀ cell ∈ m, cell.1 < n

/-- `index <= total` (10_state.md rule R13). -/
abbrev Cursor.Legal (c : Cursor) : Prop := c.index ≤ c.total

/-- The channel record: `rd` and `count` in their ranges (10_state.md rule R22), the storage canonical
and inside the ring, TAIL only with EOS, and a closed channel as `flush` left it (40_control_port.md
rule R110). -/
abbrev FifoInv (s : State) : Prop :=
  s.fifo.rd < s.cap ∧ s.fifo.count ≤ s.cap ∧ s.fifo.mem.wf = true ∧ Memory.Within s.cap s.fifo.mem ∧
  (s.fifo.tail ≠ 0#3 → s.fifo.eos = true) ∧ (s.fifo.isOpen = false → s.fifo = Fifo.initial)

/-- A pending push was issued into an open channel (41_producer_port.md rule R131), with at most 65535
bytes (30_encoding.md rule R72). -/
abbrev PrdInv (s : State) : Prop :=
  ∀ r ∈ s.prd.pending, s.fifo.isOpen = true ∧ r.data.length < 65536

/-- The synthesizer record: both Cursors legal (10_state.md rule R13), the loaded bits inside the local
buffer, IDLE exactly as STOP leaves it, STARVED only while RUNNING, a session only with an open channel,
and, while RUNNING, `bs.total = spb ≠ 0` and `blk` inside its block (42_synthesizer.md rule R159). -/
abbrev SynInv (s : State) : Prop :=
  s.syn.bs.Legal ∧ s.syn.bc.Legal ∧ s.syn.bc.total.toNat ≤ 8 * s.params.lbufBytes ∧
  s.syn.lbuf.wf = true ∧ Memory.Within s.params.lbufBytes s.syn.lbuf ∧
  (s.syn.state = .idle → s.syn = Syn.initial) ∧
  (s.syn.state ≠ .idle → s.fifo.isOpen = true) ∧
  (s.syn.starved = true → s.syn.state = .running) ∧
  (s.syn.state = .running → s.reg.spb ≠ 0#32 ∧ s.syn.bs.total = s.reg.spb ∧
    (s.reg.block = 0#32 → s.syn.blk = 0#32) ∧ (s.reg.block ≠ 0#32 → s.syn.blk < s.reg.block))

/-- The recorded error code is 0 or one of 60_exceptions.md rule R180: "Codes 0 (no error since reset),
6, 7 and 12 to 15 are never recorded". -/
abbrev RegInv (s : State) : Prop :=
  s.reg.errCode ∈ [0#4, 1#4, 2#4, 3#4, 4#4, 5#4, 8#4, 9#4, 10#4, 11#4]

/-- The invariant of the machine. -/
abbrev Inv (s : State) : Prop :=
  s.params.Legal ∧ FifoInv s ∧ PrdInv s ∧ SynInv s ∧ RegInv s

/-! ### Safe steps -/

/-- A step is safe when it does not fault. -/
abbrev SafeStep (s : State) : Prop := ∀ f, step s ≠ .fault f

/-! ### The byte stream -/

/-- The bytes the channel holds, oldest first (10_state.md rules R22, R23). -/
def stored (s : State) : List Byte :=
  (List.range s.fifo.count).map fun i => s.fifo.mem.read ((s.fifo.rd + i) % s.cap)

/-- Bit `j` of a byte stream, each byte's most significant bit first (20_memory.md rule R57). -/
def streamBit (bytes : List Byte) (j : Nat) : Bool := (bytes.getD (j / 8) 0x00#8).getLsbD (7 - j % 8)

/-- The number of bits of a stream whose final byte has TAIL valid bits, 0 meaning all 8
(10_state.md rule R22). -/
def streamBits (bytes : List Byte) (tail : BitVec 3) : Nat :=
  8 * bytes.length - (if tail = 0#3 then 0 else 8 - tail.toNat)

/-- The next step is a perform that stores these bytes: the accepted portion of the push
(41_producer_port.md rule R133). -/
def acceptedBy (s : State) : List Byte :=
  match nextEvent s, s.prd.pending with
  | some (.perform, _), some r => if proto r s then [] else r.data.take s.freeRun
  | _, _ => []

/-- The next step is a tick whose refill takes these bytes (42_synthesizer.md rules R152, R153). -/
def takenBy (s : State) : List Byte :=
  match nextEvent s with
  | some (.txn t, _) =>
    match decode t with
    | .ok .tick =>
      if s.syn.state = .running ∧ s.syn.bs.isDone = true ∧ s.syn.bc.isLast = true
      then fifoPeek (refillCount s) s else []
    | _ => []
  | _ => []

/-- The next step ends the session and discards what the channel stores: a reset, STOP, or an OPEN
that is not refused (20_memory.md rules R56, R61). -/
def endsSession (s : State) : Bool :=
  match nextEvent s with
  | some (.reset, _) => true
  | some (.txn t, _) =>
    match decode t with
    | .ok .wrCmdStop => true
    | .ok .wrCmdOpen => decide (s.syn.state ≠ .running)
    | _ => false
  | _ => false

/-- `n` steps inside one session: the bytes accepted, the bytes taken, and the state reached; none if
the session ends or the machine stops. -/
def sessionRun : Nat → State → Option (List Byte × List Byte × State)
  | 0, s => some ([], [], s)
  | n + 1, s =>
    if endsSession s then none
    else match step s with
      | .next t =>
        match sessionRun n t with
        | some (a, c, u) => some (acceptedBy s ++ a, takenBy s ++ c, u)
        | none => none
      | .fault _ => none
      | .refused _ => none

/-! ### Runs of ticks -/

/-- `n` ticks in a row. -/
def runTicks : Nat → State → Option State
  | 0, s => some s
  | n + 1, s =>
    match exec .tick s with
    | .next t => runTicks n t
    | .fault _ => none
    | .refused _ => none

/-! ### Observations and sticky bits -/

/-- The observation is a producer response. -/
def Obs.isResponse : Obs → Bool
  | .response _ => true
  | .read _ => false
  | .sample _ => false

/-- The observation is a sample record. -/
def Obs.isSample : Obs → Bool
  | .sample _ => true
  | .read _ => false
  | .response _ => false

/-- The next step clears the sticky bit at bit `n` of STATUS if it is set: a reset, or a write to STATUS
with that bit of DATA 1 (60_exceptions.md rule R183, column "cleared by"). -/
def clearsSticky (n : Nat) (s : State) : Bool :=
  match nextEvent s with
  | some (.reset, _) => true
  | some (.txn t, _) =>
    match decode t with
    | .ok (.wrStatus d) => d.getLsbD n
    | _ => false
  | _ => false

/-- Pushes that have been issued: answered, or still pending (41_producer_port.md rule R137). -/
def issued (s : State) : Nat :=
  (s.trace.filter Obs.isResponse).length + (if s.prd.pending.isSome then 1 else 0)

end Sys2Proof.Machine
end

