-- ==== Sys2Proof/Certificates/Slice0/Obligations.lean ====
section
/-! DEFINITION. The statements for the provers. Each docstring names the rule of spec/ that the statement
formalises. Where a statement says `{ s with … }`, every field that is not named keeps its value: that
is its frame. -/

open Sys2Proof Sys2Proof.Machine

/-! ### Encoding -/

/-- 30_encoding.md rules R70 to R73, R79: no bit of a well-formed transaction's encoding is dropped. -/
def Obligations.DecodeOfEncode : Prop :=
  ∀ i : Instr, i.wf = true → decode (encode i) = .ok i

/-- 30_encoding.md rules R78, R79: what decodes is well formed, and its words are the encoder's, so two
transactions never share words. -/
def Obligations.DecodedIsWellFormedAndReencodes : Prop :=
  ∀ (t : Txn) (i : Instr), decode t = .ok i → i.wf = true ∧ encode i = t

/-- 30_encoding.md rule R78: a reserved CLASS, a nonzero MBZ field, or a data length other than LEN
spells no transaction, whatever else the descriptor holds; the step refuses it by name. -/
def Obligations.ReservedDescriptorsAreRefused : Prop :=
  ∀ (t : Txn) (s : State) (rest : List Event), s.inbox = .txn t :: rest →
    ((t.desc.toNat / 2 ^ 28 = 0 ∨ 5 ≤ t.desc.toNat / 2 ^ 28) ∨
     ((t.desc.toNat / 2 ^ 28 = 1 ∨ t.desc.toNat / 2 ^ 28 = 2) ∧ t.desc.toNat / 2 ^ 8 % 2 ^ 20 ≠ 0) ∨
     (t.desc.toNat / 2 ^ 28 = 3 ∧ t.desc.toNat / 2 ^ 21 % 2 ^ 7 ≠ 0) ∨
     (t.desc.toNat / 2 ^ 28 = 4 ∧ t.desc.toNat % 2 ^ 28 ≠ 0) ∨
     (t.desc.toNat / 2 ^ 28 = 3 ∧ ∃ bs, t.operand = .bytes bs ∧ bs.length ≠ t.desc.toNat % 2 ^ 16)) →
    ∃ why, decode t = .error why ∧ step s = .refused (.noTransaction why)

/-- 30_encoding.md rule R79, 95_test_vectors.md: words written out by hand, one or more of each format. -/
def Obligations.WrittenWordsDecode : Prop :=
  decode { desc := 0x10000000#32, operand := .word 0x00000002#32 } = .ok .wrCmdStart ∧
  decode { desc := 0x10000000#32, operand := .word 0x00000012#32 } = .ok (.wrCmdReserved 0x12#32) ∧
  decode { desc := 0x1000000C#32, operand := .word 0x00000001#32 } = .ok (.wrConfig 1#32) ∧
  decode { desc := 0x10000031#32, operand := .word 0x00000005#32 } = .ok (.wrInvalid 0x31#8 5#32) ∧
  decode { desc := 0x2000001C#32, operand := .none } = .ok .rdProgress ∧
  decode { desc := 0x20000005#32, operand := .none } = .ok (.rdInvalid 0x05#8) ∧
  decode { desc := 0x30020001#32, operand := .bytes [0x01#8] } = .ok (.push 0#3 true [0x01#8]) ∧
  decode { desc := 0x300D0001#32, operand := .bytes [0xA0#8] } = .ok (.pushLast 3#3 false [0xA0#8]) ∧
  decode { desc := 0x40000000#32, operand := .none } = .ok .tick

/-! ### Commands -/

/-- 40_control_port.md rule R107. -/
def Obligations.NopLeavesEveryState : Prop :=
  ∀ s : State, exec .wrCmdNop s = .next s

/-- 40_control_port.md rule R108, with `flush` of 20_memory.md rule R56 written out. -/
def Obligations.OpenBeginsSession : Prop :=
  ∀ s : State, exec .wrCmdOpen s = .next (
    if s.syn.state = .running then
      { s with reg := { s.reg with cmdErr := true, errCode := 5#4, errOff := 0x00#8 } }
    else
      { s with
        fifo := { mem := [], rd := 0, count := 0, isOpen := true, eos := false, tail := 0#3 }
        prd := { pending := none }
        trace := if s.prd.pending = none then s.trace else s.trace ++ [.response .term] })

/-- 40_control_port.md rule R109: the three refusals in the rule's order, else the effect. -/
def Obligations.StartBeginsTransmission : Prop :=
  ∀ s : State, exec .wrCmdStart s = .next (
    if s.syn.state = .running then
      { s with reg := { s.reg with cmdErr := true, errCode := 2#4, errOff := 0x00#8 } }
    else if s.fifo.isOpen = false then
      { s with reg := { s.reg with cmdErr := true, errCode := 3#4, errOff := 0x00#8 } }
    else if s.reg.spb = 0#32 then
      { s with reg := { s.reg with cmdErr := true, errCode := 4#4, errOff := 0x00#8 } }
    else
      { s with
        syn := { state := .running
                 bs := { index := s.reg.spb, total := s.reg.spb }
                 bc := { index := 0#32, total := 0#32 }
                 curBit := false, lbuf := [], phase := 0#32, blk := 0#32, starved := false }
        reg := { s.reg with progress := 0#32, progSnap := 0#32 } })

/-- 40_control_port.md rule R110, with `flush` of 20_memory.md rule R56 written out. -/
def Obligations.StopEndsSession : Prop :=
  ∀ s : State, exec .wrCmdStop s = .next
    { s with
      fifo := { mem := [], rd := 0, count := 0, isOpen := false, eos := false, tail := 0#3 }
      prd := { pending := none }
      syn := { state := .idle
               bs := { index := 0#32, total := 0#32 }
               bc := { index := 0#32, total := 0#32 }
               curBit := false, lbuf := [], phase := 0#32, blk := 0#32, starved := false }
      trace := if s.prd.pending = none then s.trace else s.trace ++ [.response .term] }

/-- 40_control_port.md rule R106: DATA 0 to 3 select the four commands, and every other DATA word, one
with `DATA[2:0] >= 4` or a bit above bit 2, records CMD_RESERVED and does nothing else. -/
def Obligations.CommandWordDecodeAndReserved : Prop :=
  (∀ d : Word, decode { desc := 0x10000000#32, operand := .word d } = .ok (
    if d = 0#32 then .wrCmdNop else if d = 1#32 then .wrCmdOpen else if d = 2#32 then .wrCmdStart
    else if d = 3#32 then .wrCmdStop else .wrCmdReserved d)) ∧
  (∀ (d : Word) (s : State), 4 ≤ d.toNat → exec (.wrCmdReserved d) s = .next
    { s with reg := { s.reg with cmdErr := true, errCode := 1#4, errOff := 0x00#8 } })

/-! ### Register writes -/

/-- 40_control_port.md rule R111: the five W1C bits; every other bit of DATA is ignored. -/
def Obligations.StatusWriteClearsOnes : Prop :=
  ∀ (d : Word) (s : State), exec (.wrStatus d) s = .next
    { s with reg := { s.reg with
        done := if d.getLsbD 1 then false else s.reg.done
        prog := if d.getLsbD 2 then false else s.reg.prog
        rdErr := if d.getLsbD 8 then false else s.reg.rdErr
        cmdErr := if d.getLsbD 9 then false else s.reg.cmdErr
        accErr := if d.getLsbD 10 then false else s.reg.accErr } }

/-- 40_control_port.md rules R112 and R95: the write keeps bits 1, 2, 8, 9, 10 of DATA, and a read right
after it returns DATA masked with 0x706. -/
def Obligations.IrqEnableWriteAndReadBack : Prop :=
  ∀ (d : Word) (s : State), ∃ t : State,
    t = { s with reg := { s.reg with irqEn :=
          { done := d.getLsbD 1, prog := d.getLsbD 2, rdErr := d.getLsbD 8
            cmdErr := d.getLsbD 9, accErr := d.getLsbD 10 } } } ∧
    exec (.wrIrqEn d) s = .next t ∧
    exec .rdIrqEn t = .next { t with trace := t.trace ++ [.read (d &&& 0x706#32)] }

/-- 40_control_port.md rules R113 to R116: a configuration register is written unless RUNNING, when
ACC_ERR(CFG_RUNNING) is recorded with the register's offset. -/
def Obligations.ConfigurationWrites : Prop :=
  ∀ (d : Word) (s : State),
    exec (.wrConfig d) s = .next (if s.syn.state = .running
      then { s with reg := { s.reg with accErr := true, errCode := 11#4, errOff := 0x0C#8 } }
      else { s with reg := { s.reg with starvePolicy := d.getLsbD 0 } }) ∧
    exec (.wrSpb d) s = .next (if s.syn.state = .running
      then { s with reg := { s.reg with accErr := true, errCode := 11#4, errOff := 0x10#8 } }
      else { s with reg := { s.reg with spb := d } }) ∧
    exec (.wrPhaseInc d) s = .next (if s.syn.state = .running
      then { s with reg := { s.reg with accErr := true, errCode := 11#4, errOff := 0x14#8 } }
      else { s with reg := { s.reg with phaseInc := d } }) ∧
    exec (.wrBlock d) s = .next (if s.syn.state = .running
      then { s with reg := { s.reg with accErr := true, errCode := 11#4, errOff := 0x18#8 } }
      else { s with reg := { s.reg with block := d } })

/-- 40_control_port.md rule R117: the five read-only registers record ACC_ERR(RO_WRITE, OFF). -/
def Obligations.ReadOnlyWritesRecordError : Prop :=
  ∀ (d : Word) (s : State),
    exec (.wrProgress d) s = .next { s with reg := { s.reg with accErr := true, errCode := 10#4, errOff := 0x1C#8 } } ∧
    exec (.wrProgSnap d) s = .next { s with reg := { s.reg with accErr := true, errCode := 10#4, errOff := 0x20#8 } } ∧
    exec (.wrFifoLevel d) s = .next { s with reg := { s.reg with accErr := true, errCode := 10#4, errOff := 0x24#8 } } ∧
    exec (.wrParams d) s = .next { s with reg := { s.reg with accErr := true, errCode := 10#4, errOff := 0x28#8 } } ∧
    exec (.wrErrInfo d) s = .next { s with reg := { s.reg with accErr := true, errCode := 10#4, errOff := 0x2C#8 } }

/-- 40_control_port.md rules R92, R105 and R118: at a misaligned offset MISALIGNED, at an aligned one from
0x30 on UNMAPPED, with the offset; a read also returns 0. -/
def Obligations.InvalidOffsetsRecordError : Prop :=
  ∀ (off : Byte) (d : Word) (s : State), off.toNat % 4 ≠ 0 ∨ 0x30 ≤ off.toNat →
    exec (.wrInvalid off d) s = .next
      { s with reg := { s.reg with
          accErr := true, errCode := if off.toNat % 4 ≠ 0 then 8#4 else 9#4, errOff := off } } ∧
    exec (.rdInvalid off) s = .next
      { s with
        reg := { s.reg with
          accErr := true, errCode := if off.toNat % 4 ≠ 0 then 8#4 else 9#4, errOff := off }
        trace := s.trace ++ [.read 0x00000000#32] }

/-! ### Register reads -/

/-- 40_control_port.md rules R93 and R97 to R101: the registers that read as one stored word, and CMD,
which reads 0. -/
def Obligations.StoredRegistersReadBack : Prop :=
  ∀ s : State,
    exec .rdCmd s = .next { s with trace := s.trace ++ [.read 0x00000000#32] } ∧
    exec .rdSpb s = .next { s with trace := s.trace ++ [.read s.reg.spb] } ∧
    exec .rdPhaseInc s = .next { s with trace := s.trace ++ [.read s.reg.phaseInc] } ∧
    exec .rdBlock s = .next { s with trace := s.trace ++ [.read s.reg.block] } ∧
    exec .rdProgress s = .next { s with trace := s.trace ++ [.read s.reg.progress] } ∧
    exec .rdProgSnap s = .next { s with trace := s.trace ++ [.read s.reg.progSnap] }

/-- 40_control_port.md rule R94 and 10_state.md rule R28, bit by bit; the hold of bit 6 is
41_producer_port.md rule R134 and the line of bit 12 is 10_state.md rule R29, both named by the model's
functions, which HoldIsRuleR134 and InterruptLineIsEnabledPending state. -/
def Obligations.StatusReadsBitByBit : Prop :=
  ∀ s : State, ∃ v : Word,
    exec .rdStatus s = .next { s with trace := s.trace ++ [.read v] } ∧
    v.getLsbD 0 = decide (s.syn.state = .running) ∧
    v.getLsbD 1 = s.reg.done ∧
    v.getLsbD 2 = s.reg.prog ∧
    v.getLsbD 3 = s.syn.starved ∧
    v.getLsbD 4 = decide (s.fifo.count = 0) ∧
    v.getLsbD 5 = decide (s.fifo.count = 2 ^ s.params.fifoLog2) ∧
    v.getLsbD 6 = held s ∧
    v.getLsbD 7 = s.fifo.eos ∧
    v.getLsbD 8 = s.reg.rdErr ∧
    v.getLsbD 9 = s.reg.cmdErr ∧
    v.getLsbD 10 = s.reg.accErr ∧
    v.getLsbD 11 = s.fifo.isOpen ∧
    v.getLsbD 12 = irq s ∧
    ∀ n, 13 ≤ n → v.getLsbD n = false

/-- 40_control_port.md rules R95 and R96: the enables at bits 1, 2, 8, 9, 10 and the policy at bit 0,
zeros elsewhere. -/
def Obligations.EnableAndPolicyReadBitByBit : Prop :=
  ∀ s : State, ∃ v w : Word,
    exec .rdIrqEn s = .next { s with trace := s.trace ++ [.read v] } ∧
    v.getLsbD 1 = s.reg.irqEn.done ∧ v.getLsbD 2 = s.reg.irqEn.prog ∧
    v.getLsbD 8 = s.reg.irqEn.rdErr ∧ v.getLsbD 9 = s.reg.irqEn.cmdErr ∧
    v.getLsbD 10 = s.reg.irqEn.accErr ∧
    (∀ n, n ∉ [1, 2, 8, 9, 10] → v.getLsbD n = false) ∧
    exec .rdConfig s = .next { s with trace := s.trace ++ [.read w] } ∧
    w.getLsbD 0 = s.reg.starvePolicy ∧ ∀ n, n ≠ 0 → w.getLsbD n = false

/-- 40_control_port.md rule R102: FIFO_LEVEL reads `zext_32(fifo.count)`, and the word is the exact count
wherever `count <= C` with a legal FIFO_LOG2. -/
def Obligations.FifoLevelReadsCount : Prop :=
  ∀ s : State, s.params.Legal → s.fifo.count ≤ 2 ^ s.params.fifoLog2 → ∃ v : Word,
    v.toNat = s.fifo.count ∧
    exec .rdFifoLevel s = .next { s with trace := s.trace ++ [.read v] }

/-- 40_control_port.md rule R103 and 10_state.md rule R31: the fields of PARAMS, and the word for
`FIFO_LOG2 = 3`, `LBUF_BYTES = 4`. -/
def Obligations.ParamsReadFields : Prop :=
  ∀ s : State, s.params.Legal → ∃ v : Word,
    exec .rdParams s = .next { s with trace := s.trace ++ [.read v] } ∧
    v.toNat % 2 ^ 5 = s.params.fifoLog2 ∧
    v.toNat / 2 ^ 5 % 2 ^ 3 = 0 ∧
    v.toNat / 2 ^ 8 % 2 ^ 8 = s.params.lbufBytes ∧
    v.toNat / 2 ^ 16 % 2 ^ 8 = 8 ∧
    v.toNat / 2 ^ 24 = 32 ∧
    (s.params = { fifoLog2 := 3, lbufBytes := 4 } → v = 0x20080403#32)

/-- 40_control_port.md rule R104 and 10_state.md rule R30: the fields of ERR_INFO. -/
def Obligations.ErrInfoReadsFields : Prop :=
  ∀ s : State, ∃ v : Word,
    exec .rdErrInfo s = .next { s with trace := s.trace ++ [.read v] } ∧
    v.toNat % 2 ^ 4 = s.reg.errCode.toNat ∧
    v.toNat / 2 ^ 4 % 2 ^ 4 = 0 ∧
    v.toNat / 2 ^ 8 % 2 ^ 8 = s.reg.errOff.toNat ∧
    v.toNat / 2 ^ 16 = 0

/-- 10_state.md rule R29: the line is the OR of the enabled pending sources, and it is low at reset. -/
def Obligations.InterruptLineIsEnabledPending : Prop :=
  (∀ s : State, irq s = true ↔
    (s.reg.done = true ∧ s.reg.irqEn.done = true) ∨ (s.reg.prog = true ∧ s.reg.irqEn.prog = true) ∨
    (s.reg.rdErr = true ∧ s.reg.irqEn.rdErr = true) ∨ (s.reg.cmdErr = true ∧ s.reg.irqEn.cmdErr = true) ∨
    (s.reg.accErr = true ∧ s.reg.irqEn.accErr = true)) ∧
  ∀ p : Params, irq (State.resetWith p) = false

/-! ### The producer port -/

/-- 41_producer_port.md rule R131, for both rows (rules R135, R136): with no push pending, an issue is
answered TERM while the channel is closed and becomes pending while it is open. -/
def Obligations.PushIssueEntersPort : Prop :=
  ∀ (tail : BitVec 3) (err : Bool) (data : List Byte) (s : State),
    data.length < 65536 → s.prd.pending = none →
    exec (.push tail err data) s = .next (if s.fifo.isOpen = false
      then { s with trace := s.trace ++ [.response .term] }
      else { s with prd := { pending := some { last := false, err := err, tail := tail, data := data } } }) ∧
    exec (.pushLast tail err data) s = .next (if s.fifo.isOpen = false
      then { s with trace := s.trace ++ [.response .term] }
      else { s with prd := { pending := some { last := true, err := err, tail := tail, data := data } } })

/-- 41_producer_port.md rule R131: "a producer with a pending push has no issue step". THE MODEL'S CHOICE
(log entries 1 and 6) is how that shows: the second push stays in the inbox and the other agents' events
go on; the meaning itself changes nothing. -/
def Obligations.SecondPushWaits : Prop :=
  ∀ (tail : BitVec 3) (err : Bool) (data : List Byte) (s : State) (r : PushReq),
    data.length < 65536 → s.prd.pending = some r →
    exec (.push tail err data) s = .next s ∧
    exec (.pushLast tail err data) s = .next s ∧
    (∀ t : Txn, (decode t = .ok (.push tail err data) ∨ decode t = .ok (.pushLast tail err data)) →
      (s.inbox = [.txn t] → step s = .next s) ∧
      (∀ u : Txn, decode u = .ok .tick → s.inbox = [.txn t, .txn u] →
        step s = exec .tick { s with inbox := [.txn t] }))

/-- 41_producer_port.md rules R132 and R133: the whole of `Perform()`, for a push that is not held. -/
def Obligations.PerformAnswersPush : Prop :=
  ∀ (s : State) (r : PushReq) (rest : List Event),
    s.inbox = .perform :: rest → s.prd.pending = some r → held s = false →
    step s = .next (
      if s.fifo.eos = true ∨ (r.last = false ∧ (r.tail ≠ 0#3 ∨ r.err = true)) ∨
          (r.last = true ∧ r.data.length = 0 ∧ r.tail ≠ 0#3) then
        { s with inbox := rest, prd := { pending := none }, trace := s.trace ++ [.response .proto] }
      else if r.data.length = 0 then
        { s with
          inbox := rest
          prd := { pending := none }
          fifo := if r.last = true then { s.fifo with eos := true, tail := 0#3 } else s.fifo
          reg := if r.last = true ∧ r.err = true then { s.reg with rdErr := true } else s.reg
          trace := s.trace ++ [.response (.accept 0#16)] }
      else
        { s with
          inbox := rest
          prd := { pending := none }
          fifo := { s.fifo with
            mem := s.fifo.mem.writeBytes ((s.fifo.rd + s.fifo.count) % 2 ^ s.params.fifoLog2)
              (r.data.take s.freeRun)
            count := s.fifo.count + min r.data.length s.freeRun
            eos := s.fifo.eos || (r.last && decide (r.data.length ≤ s.freeRun))
            tail := if r.last = true ∧ r.data.length ≤ s.freeRun then r.tail else s.fifo.tail }
          reg := if r.last = true ∧ r.data.length ≤ s.freeRun ∧ r.err = true
            then { s.reg with rdErr := true } else s.reg
          trace := s.trace ++ [.response (.accept (BitVec.ofNat 16 (min r.data.length s.freeRun)))] })

/-- 41_producer_port.md rule R134: when a pending push is held, in the rule's own terms; no push, no
hold. -/
def Obligations.HoldIsRuleR134 : Prop :=
  ∀ s : State, held s = true ↔ ∃ r, s.prd.pending = some r ∧ s.fifo.isOpen = true ∧ 0 < r.data.length ∧
    ¬ (s.fifo.eos = true ∨ (r.last = false ∧ (r.tail ≠ 0#3 ∨ r.err = true)) ∨
        (r.last = true ∧ r.data.length = 0 ∧ r.tail ≠ 0#3)) ∧
    s.fifo.count = 2 ^ s.params.fifoLog2

/-- 41_producer_port.md rule R134: while a push is held perform is not enabled, so a step that finds only
perform in the inbox changes nothing, and one that finds a tick behind it takes the tick. -/
def Obligations.HeldPushHasNoPerform : Prop :=
  ∀ s : State, held s = true →
    (s.inbox = [.perform] → step s = .next s) ∧
    (∀ u : Txn, decode u = .ok .tick → s.inbox = [.perform, .txn u] →
      step s = exec .tick { s with inbox := [.perform] })

/-- 41_producer_port.md rules R134 and R138: a refill lifts the hold. In every legal state with a held
push, a running tick at the end of the loaded bits runs, takes at least one byte, keeps the push pending
and leaves its perform enabled, and that perform accepts at least one byte. -/
def Obligations.RefillLiftsHold : Prop :=
  ∀ s : State, Inv s → held s = true → s.syn.state = .running →
    s.syn.bs.total ≤ s.syn.bs.index → s.syn.bc.total.toNat ≤ s.syn.bc.index.toNat + 1 →
    ∃ t, exec .tick s = .next t ∧ t.fifo.count < s.fifo.count ∧ t.prd = s.prd ∧
      performEnabled t = true ∧ (perform t).prd.pending = none ∧ t.fifo.count < (perform t).fifo.count

/-- 41_producer_port.md rule R138, 20_memory.md rule R61: the bytes a perform accepts follow the earlier
ones in the channel, in order; nothing else about the stored stream changes. -/
def Obligations.PerformAppendsToStream : Prop :=
  ∀ (s : State) (r : PushReq), Inv s → s.prd.pending = some r → held s = false →
    stored (perform s) = stored s ++ (if proto r s = true then [] else r.data.take s.freeRun)

/-- 41_producer_port.md rule R137: every issued push is answered exactly once. Responses sent plus the
push still pending grow by one in a step that issues a push and in no other step, and no observation is
ever taken back. -/
def Obligations.EveryPushAnsweredOnce : Prop :=
  ∀ s t : State, step s = .next t →
    issued t = issued s + (match nextEvent s with
      | some (.txn x, _) => if isPushTxn x = true then 1 else 0
      | _ => 0) ∧
    s.trace <+: t.trace

/-! ### The synthesizer -/

/-- 42_synthesizer.md rule R151 (and R150 outside RUNNING). -/
def Obligations.IdleTickEmitsSilence : Prop :=
  ∀ s : State, s.syn.state ≠ .running →
    exec .tick s = .next { s with trace := s.trace ++ [.sample { i := 0#8, q := 0#8, active := false }] }

/-- 42_synthesizer.md rules R152, R153, R154, R155 and R157: the whole running tick in every legal
state. The progress event at its end is `progressTick`, which ProgressEventsFollowBlock states; the
record `envelopeSample` is stated by CarrierFollowsPhase. -/
def Obligations.RunningTickFollowsRule : Prop :=
  ∀ s : State, Inv s → s.syn.state = .running →
    let n := min s.params.lbufBytes (min s.fifo.count (2 ^ s.params.fifoLog2 - s.fifo.rd))
    let pad := if s.fifo.eos = true ∧ s.fifo.count = n ∧ s.fifo.tail ≠ 0#3 then 8 - s.fifo.tail.toNat else 0
    let j := s.syn.bc.index.toNat + 1
    let nextBit := (s.syn.lbuf.read (j / 8)).getLsbD (7 - j % 8)
    let firstBit := (s.fifo.mem.read s.fifo.rd).getLsbD 7
    exec .tick s = .next (progressTick (
      if s.syn.bs.index < s.syn.bs.total then
        { s with
          syn := { s.syn with
            bs := { s.syn.bs with index := s.syn.bs.index + 1#32 }
            starved := false
            phase := s.syn.phase + s.reg.phaseInc }
          trace := s.trace ++ [.sample (envelopeSample s.syn.curBit s.syn.phase)] }
      else if j < s.syn.bc.total.toNat then
        { s with
          syn := { s.syn with
            bs := { s.syn.bs with index := 1#32 }
            bc := { s.syn.bc with index := s.syn.bc.index + 1#32 }
            curBit := nextBit
            starved := false
            phase := s.syn.phase + s.reg.phaseInc }
          trace := s.trace ++ [.sample (envelopeSample nextBit s.syn.phase)] }
      else if 0 < s.fifo.count then
        { s with
          fifo := { s.fifo with
            rd := (s.fifo.rd + n) % 2 ^ s.params.fifoLog2
            count := s.fifo.count - n }
          syn := { s.syn with
            bs := { s.syn.bs with index := 1#32 }
            bc := { index := 0#32, total := BitVec.ofNat 32 (8 * n - pad) }
            lbuf := s.syn.lbuf.writeBytes 0 (s.fifo.mem.readBytes s.fifo.rd n)
            curBit := firstBit
            starved := false
            phase := s.syn.phase + s.reg.phaseInc }
          reg := { s.reg with progress := s.reg.progress + BitVec.ofNat 32 n }
          trace := s.trace ++ [.sample (envelopeSample firstBit s.syn.phase)] }
      else if s.reg.starvePolicy = true ∧ s.fifo.eos = false then
        { s with
          syn := { s.syn with starved := true, phase := s.syn.phase + s.reg.phaseInc }
          trace := s.trace ++ [.sample { i := 0#8, q := 0#8, active := true }] }
      else
        { s with
          syn := { s.syn with state := .done, starved := false }
          reg := { s.reg with done := true, progSnap := s.reg.progress }
          trace := s.trace ++ [.sample { i := 0#8, q := 0#8, active := false }] }))

/-- 20_memory.md rule R53, 42_synthesizer.md rule R153: the refill gives the local buffer the oldest
stored bytes, leaves its other bytes, and the channel keeps the rest in order. -/
def Obligations.RefillMovesOldestBytes : Prop :=
  ∀ s : State, Inv s →
    stored (refill s) = (stored s).drop (refillCount s) ∧
    (∀ k, k < refillCount s → (refill s).syn.lbuf.read k = (stored s).getD k 0x00#8) ∧
    (∀ k, refillCount s ≤ k → (refill s).syn.lbuf.read k = s.syn.lbuf.read k)

/-- 42_synthesizer.md rules R156 and R157: the record of a phase, I a quarter period ahead of Q in the
table, silence for an off envelope; and every running tick that does not complete advances the phase by
PHASE_INC and emits a record of the phase before it, while one that completes keeps the phase. -/
def Obligations.CarrierFollowsPhase : Prop :=
  (∀ p : Word,
    envelopeSample true p = { i := lut (BitVec.ofNat 8 (p.toNat / 2 ^ 24 + 64))
                              q := lut (BitVec.ofNat 8 (p.toNat / 2 ^ 24)), active := true } ∧
    envelopeSample false p = { i := 0#8, q := 0#8, active := true }) ∧
  ∀ s t : State, s.syn.state = .running → exec .tick s = .next t →
    (t.syn.state = .running → t.syn.phase = s.syn.phase + s.reg.phaseInc ∧
      t.trace = s.trace ++ [.sample (envelopeSample (t.syn.curBit && !t.syn.starved) s.syn.phase)]) ∧
    (t.syn.state ≠ .running → t.syn.phase = s.syn.phase ∧
      t.trace = s.trace ++ [.sample { i := 0#8, q := 0#8, active := false }])

/-- 42_synthesizer.md rule R159: the whole of `ProgressTick()`, with its frame; and over every running
tick that goes on, the completion tick included, the block counter, PROG and PROG_SNAP. DONE is set by
exactly the ticks that leave RUNNING (rule R155), so a tick that completes and also ends a block sets both
DONE and PROG. -/
def Obligations.ProgressEventsFollowBlock : Prop :=
  (∀ s : State, progressTick s =
    if s.reg.block = 0#32 then s
    else if s.syn.blk + 1#32 = s.reg.block then
      { s with
        syn := { s.syn with blk := 0#32 }
        reg := { s.reg with prog := true, progSnap := s.reg.progress } }
    else { s with syn := { s.syn with blk := s.syn.blk + 1#32 } }) ∧
  ∀ s t : State, s.syn.state = .running → exec .tick s = .next t →
    (t.syn.state = .running → t.reg.done = s.reg.done) ∧
    (t.syn.state ≠ .running → t.reg.done = true) ∧
    (s.reg.block = 0#32 → t.syn.blk = s.syn.blk ∧ t.reg.prog = s.reg.prog ∧
      t.reg.progSnap = if t.syn.state = .running then s.reg.progSnap else t.reg.progress) ∧
    (s.reg.block ≠ 0#32 → s.syn.blk + 1#32 ≠ s.reg.block →
      t.syn.blk = s.syn.blk + 1#32 ∧ t.reg.prog = s.reg.prog ∧
      t.reg.progSnap = if t.syn.state = .running then s.reg.progSnap else t.reg.progress) ∧
    (s.reg.block ≠ 0#32 → s.syn.blk + 1#32 = s.reg.block →
      t.syn.blk = 0#32 ∧ t.reg.prog = true ∧ t.reg.progSnap = t.reg.progress)

/-- 42_synthesizer.md rule R150: a TICK always has a step and raises no CMD_ERR or ACC_ERR. -/
def Obligations.TickAlwaysHasStep : Prop :=
  ∀ s : State, Inv s → ∃ t, exec .tick s = .next t ∧
    t.reg.cmdErr = s.reg.cmdErr ∧ t.reg.accErr = s.reg.accErr ∧
    t.reg.errCode = s.reg.errCode ∧ t.reg.errOff = s.reg.errOff

/-- 42_synthesizer.md rule R160: the transitions of `syn.state`, over every transaction; and the two
steps of the block itself. -/
def Obligations.SynStateTransitions : Prop :=
  (∀ (i : Instr) (s t : State), exec i s = .next t → t.syn.state ≠ s.syn.state →
    (i = .wrCmdStart ∧ s.syn.state ≠ .running ∧ t.syn.state = .running) ∨
    (i = .tick ∧ s.syn.state = .running ∧ t.syn.state = .done) ∨
    (i = .wrCmdStop ∧ t.syn.state = .idle)) ∧
  ∀ s : State, (perform s).syn.state = s.syn.state ∧ (resetBlock s).syn.state = .idle

/-- 42_synthesizer.md rule R161, with the clauses that its run takes from other rules: a stream of
`B >= 1` bits that the channel holds whole, with its end declared, gives exactly `B * spb` active ticks
(R161), bit `k / spb` on tick `k`, most significant bit of each byte first (R154), on the carrier whose
phase advances by PHASE_INC every tick (R156, R157), then the completion tick (R155), with the channel
emptied and its bytes counted by the refills (R153, R158) and PROG_SNAP the final count (R155). -/
def Obligations.WholeStreamIsTransmitted : Prop :=
  ∀ s s1 : State, Inv s → s.syn.state ≠ .running → s.fifo.isOpen = true → s.reg.spb ≠ 0#32 →
    s.fifo.eos = true → 0 < s.fifo.count → exec .wrCmdStart s = .next s1 →
    let B := streamBits (stored s) s.fifo.tail
    let spb := s.reg.spb.toNat
    1 ≤ B ∧
    ∃ t, runTicks (B * spb + 1) s1 = some t ∧
      t.trace = s.trace ++
        (List.range (B * spb)).map (fun k => Obs.sample
          (envelopeSample (streamBit (stored s) (k / spb)) (BitVec.ofNat 32 k * s.reg.phaseInc))) ++
        [.sample { i := 0#8, q := 0#8, active := false }] ∧
      t.syn.state = .done ∧ t.reg.done = true ∧ t.fifo.count = 0 ∧
      t.reg.progress = BitVec.ofNat 32 s.fifo.count ∧ t.reg.progSnap = t.reg.progress

/-- 42_synthesizer.md rule R158: an accepted START zeroes PROGRESS, a tick adds the bytes that its refill
takes from the channel, every other transaction (a refused START among them) keeps it, perform keeps it,
and reset zeroes it. -/
def Obligations.ProgressCountsBytesTaken : Prop :=
  (∀ (i : Instr) (s t : State), exec i s = .next t →
    (i = .wrCmdStart ∧ s.syn.state ≠ .running ∧ t.syn.state = .running ∧ t.reg.progress = 0#32) ∨
    (i = .tick ∧ t.fifo.count ≤ s.fifo.count ∧
      t.reg.progress = s.reg.progress + BitVec.ofNat 32 (s.fifo.count - t.fifo.count)) ∨
    (i ≠ .tick ∧ (i = .wrCmdStart → t.syn.state = s.syn.state) ∧ t.reg.progress = s.reg.progress)) ∧
  ∀ s : State, (perform s).reg.progress = s.reg.progress ∧ (resetBlock s).reg.progress = 0#32

/-- 10_state.md rule R32: the table is odd-symmetric, its quarter points are 0, 127, 0, -127, and no
entry is -128. -/
def Obligations.SineTableSymmetry : Prop :=
  (∀ k : Byte, lut (k + 128#8) = -lut k ∧ lut k ≠ 0x80#8) ∧
  lut 0#8 = 0#8 ∧ lut 64#8 = 127#8 ∧ lut 128#8 = 0#8 ∧ lut 192#8 = BitVec.ofInt 8 (-127)

/-- 10_state.md rule R33, 30_encoding.md rule R73: a TICK puts exactly one record on the sample output
port, active exactly when the synthesizer was RUNNING and did not complete; no other transaction puts
any. -/
def Obligations.OneRecordPerTick : Prop :=
  ∀ (i : Instr) (s t : State), exec i s = .next t →
    (i = .tick → ∃ x : Sample, t.trace = s.trace ++ [.sample x] ∧
      (x.active = true ↔ s.syn.state = .running ∧ t.syn.state = .running)) ∧
    (i ≠ .tick → t.trace.filter Obs.isSample = s.trace.filter Obs.isSample)

/-! ### Cursors, channel quantities, result words -/

/-- 10_state.md rules R14 to R18, with the comparison and the sums on the unsigned values. -/
def Obligations.CursorOperations : Prop :=
  ∀ c : Cursor,
    Cursor.zero = { index := 0#32, total := 0#32 } ∧
    c.startOver = { index := 0#32, total := c.total } ∧
    c.bump.total = c.total ∧ c.bump.index.toNat = (c.index.toNat + 1) % 2 ^ 32 ∧
    (c.isDone = true ↔ c.total.toNat ≤ c.index.toNat) ∧
    (c.isLast = true ↔ c.index.toNat = (c.total.toNat + (2 ^ 32 - 1)) % 2 ^ 32 ∨ c.total.toNat ≤ c.index.toNat)

/-- 10_state.md rule R23: the derived quantities, and "`free_run = 0` exactly when the channel is
full". -/
def Obligations.ChannelQuantities : Prop :=
  ∀ s : State, Inv s →
    s.wr = (s.fifo.rd + s.fifo.count) % 2 ^ s.params.fifoLog2 ∧
    s.freeRun = min (2 ^ s.params.fifoLog2 - s.fifo.count) (2 ^ s.params.fifoLog2 - s.wr) ∧
    s.dataRun = min s.fifo.count (2 ^ s.params.fifoLog2 - s.fifo.rd) ∧
    (s.spaceAvail = true ↔ s.fifo.count < 2 ^ s.params.fifoLog2) ∧
    (s.dataAvail = true ↔ 0 < s.fifo.count) ∧
    (s.freeRun = 0 ↔ s.fifo.count = 2 ^ s.params.fifoLog2) ∧
    (s.dataRun = 0 ↔ s.fifo.count = 0)

/-- 30_encoding.md rules R76 and R77: the response and sample words, field by field. -/
def Obligations.ResultWords : Prop :=
  (∀ n : BitVec 16, (responseWord (.accept n)).toNat = n.toNat) ∧
  responseWord .term = 0x40000000#32 ∧ responseWord .proto = 0x80000000#32 ∧
  ∀ x : Sample,
    (sampleWord x).toNat % 2 ^ 8 = x.i.toNat ∧
    (sampleWord x).toNat / 2 ^ 8 % 2 ^ 8 = x.q.toNat ∧
    (sampleWord x).toNat / 2 ^ 16 = if x.active = true then 1 else 0

/-! ### Errors and sticky bits -/

/-- 60_exceptions.md rules R181, R182 and R184: a transaction either leaves ERR_INFO and raises neither
error bit, or records exactly one cause of rule R180 and has no other effect than the 0 a refused read
returns. -/
def Obligations.ErrorsAreAllOrNothing : Prop :=
  ∀ (i : Instr) (s t : State), exec i s = .next t →
    (t.reg.errCode = s.reg.errCode ∧ t.reg.errOff = s.reg.errOff ∧
      (t.reg.cmdErr = true → s.reg.cmdErr = true) ∧ (t.reg.accErr = true → s.reg.accErr = true)) ∨
    (∃ code ∈ [1#4, 2#4, 3#4, 4#4, 5#4],
      t = { s with reg := { s.reg with cmdErr := true, errCode := code, errOff := 0x00#8 } }) ∨
    (∃ code ∈ [8#4, 9#4, 10#4, 11#4], ∃ off : Byte,
      t = { s with
            reg := { s.reg with accErr := true, errCode := code, errOff := off }
            trace := if i = .rdInvalid off then s.trace ++ [.read 0x00000000#32] else s.trace })

/-- 60_exceptions.md rules R183 and R185: over every step of every agent, a sticky bit falls only when the
step is a write of 1 to its STATUS bit or the reset; over the transactions alone, only by such a write;
and a perform keeps them all. -/
def Obligations.StickyBitsFallOnlyByAckOrReset : Prop :=
  (∀ s t : State, step s = .next t →
    (s.reg.done = true → t.reg.done = false → clearsSticky 1 s = true) ∧
    (s.reg.prog = true → t.reg.prog = false → clearsSticky 2 s = true) ∧
    (s.reg.rdErr = true → t.reg.rdErr = false → clearsSticky 8 s = true) ∧
    (s.reg.cmdErr = true → t.reg.cmdErr = false → clearsSticky 9 s = true) ∧
    (s.reg.accErr = true → t.reg.accErr = false → clearsSticky 10 s = true)) ∧
  (∀ (i : Instr) (s t : State), exec i s = .next t →
    (s.reg.done = true → t.reg.done = false → ∃ d, i = .wrStatus d ∧ d.getLsbD 1 = true) ∧
    (s.reg.prog = true → t.reg.prog = false → ∃ d, i = .wrStatus d ∧ d.getLsbD 2 = true) ∧
    (s.reg.rdErr = true → t.reg.rdErr = false → ∃ d, i = .wrStatus d ∧ d.getLsbD 8 = true) ∧
    (s.reg.cmdErr = true → t.reg.cmdErr = false → ∃ d, i = .wrStatus d ∧ d.getLsbD 9 = true) ∧
    (s.reg.accErr = true → t.reg.accErr = false → ∃ d, i = .wrStatus d ∧ d.getLsbD 10 = true)) ∧
  ∀ s : State,
    (s.reg.done = true → (perform s).reg.done = true) ∧ (s.reg.prog = true → (perform s).reg.prog = true) ∧
    (s.reg.rdErr = true → (perform s).reg.rdErr = true) ∧
    (s.reg.cmdErr = true → (perform s).reg.cmdErr = true) ∧
    (s.reg.accErr = true → (perform s).reg.accErr = true)

/-- 70_reset_and_hazards.md rule R204 d, 40_control_port.md rules R113 to R116: no step that starts and
ends RUNNING changes SPB, PHASE_INC, BLOCK or the policy. -/
def Obligations.ConfigurationFixedWhileRunning : Prop :=
  ∀ s t : State, step s = .next t → s.syn.state = .running → t.syn.state = .running →
    t.reg.spb = s.reg.spb ∧ t.reg.phaseInc = s.reg.phaseInc ∧ t.reg.block = s.reg.block ∧
    t.reg.starvePolicy = s.reg.starvePolicy

/-! ### Steps, reset, invariants -/

/-- 20_memory.md rules R60, R62: the machine's step runs the transaction presented next. When it decodes,
and, for a push, no push is pending, the step is `exec` of it with the transaction taken from the inbox;
`withFetchWord` presents one so. -/
def Obligations.StepRunsPresentedTransaction : Prop :=
  (∀ (s : State) (t : Txn) (rest : List Event) (i : Instr),
    s.inbox = .txn t :: rest → decode t = .ok i → (isPushTxn t = true → s.prd.pending = none) →
    step s = exec i { s with inbox := rest }) ∧
  ∀ (s : State) (nbits w : Nat) (i : Instr),
    decodeTableWord nbits w = some i → s.prd.pending = none →
    step (s.withFetchWord nbits w) = exec i s

/-- 70_reset_and_hazards.md rule R201: the reset step, from any state. A pending push is answered TERM,
every field of the four records takes its reset value, the line is low, and the next TICK emits
`(0, 0, 0)`. -/
def Obligations.ResetStepClearsBlock : Prop :=
  ∀ (s : State) (rest : List Event), s.inbox = .reset :: rest → ∃ t, step s = .next t ∧
    (s.prd.pending ≠ none → t.trace.getLast? = some (.response .term)) ∧
    t.fifo = { mem := [], rd := 0, count := 0, isOpen := false, eos := false, tail := 0#3 } ∧
    t.prd = { pending := none } ∧
    t.syn = { state := .idle
              bs := { index := 0#32, total := 0#32 }
              bc := { index := 0#32, total := 0#32 }
              curBit := false, lbuf := [], phase := 0#32, blk := 0#32, starved := false } ∧
    t.reg = { done := false, prog := false, rdErr := false, cmdErr := false, accErr := false
              irqEn := { done := false, prog := false, rdErr := false, cmdErr := false, accErr := false }
              starvePolicy := false, spb := 0#32, phaseInc := 0#32, block := 0#32
              progress := 0#32, progSnap := 0#32, errCode := 0#4, errOff := 0x00#8 } ∧
    irq t = false ∧
    exec .tick t = .next { t with trace := t.trace ++ [.sample { i := 0#8, q := 0#8, active := false }] }

/-- What the reset step does with the fields that are the model's own and not the block's registers. THE
MODEL'S CHOICE (log entry 13; the fields are log entries 1, 3 and 4): the parameters and the events still
to come are kept, and the record of the ports is kept and takes the TERM of a pending push
(70_reset_and_hazards.md rule R201) and nothing else. -/
def Obligations.ResetKeepsModelFields : Prop :=
  ∀ (s t : State) (rest : List Event), s.inbox = .reset :: rest → step s = .next t →
    t.params = s.params ∧ t.inbox = rest ∧
    t.trace = if s.prd.pending = none then s.trace else s.trace ++ [.response .term]

/-- 10_state.md rule R35: the derived values after reset, for every choice of the parameters. -/
def Obligations.ResetDerivedValues : Prop :=
  ∀ p : Params,
    statusWord (State.resetWith p) = 0x00000010#32 ∧ irq (State.resetWith p) = false ∧
    fifoLevelWord (State.resetWith p) = 0#32 ∧ errInfoWord (State.resetWith p) = 0#32 ∧
    (State.resetWith p).spaceAvail = true ∧ (State.resetWith p).dataAvail = false

/-- The invariant holds after reset, for every legal choice of the parameters (00_scope.md rule R7,
10_state.md rule R35), and the reset state of the model has one. -/
def Obligations.ResetHasInvariant : Prop :=
  (∀ p : Params, p.Legal → Inv (State.resetWith p)) ∧ Inv State.reset

/-- Every step of every agent keeps the invariant: the Cursors (10_state.md rule R13), the channel's
ranges and canonical storage (rule R22), the pending push, the synthesizer's states and the recorded
code. -/
def Obligations.StepKeepsInvariant : Prop :=
  ∀ s t : State, Inv s → step s = .next t → Inv t

/-- 10_state.md rule R31: PARAMS is constant. No step changes the parameters. -/
def Obligations.ParametersNeverChange : Prop :=
  ∀ s t : State, step s = .next t → t.params = s.params

/-- In a legal state no step faults: a step goes on, or refuses a descriptor that spells no transaction
(42_synthesizer.md rules R150, R154; 30_encoding.md rule R78). -/
def Obligations.LegalStatesNeverFault : Prop :=
  ∀ s : State, Inv s → SafeStep s ∧
    ((∃ t, step s = .next t) ∨ ∃ why, step s = .refused (.noTransaction why))

/-- 20_memory.md rule R61: the channel is strictly FIFO. Over any run inside one session, what the
channel held and what it accepted since, in order, is what the synthesizer has taken and what the channel
still holds: nothing is reordered, duplicated or lost. -/
def Obligations.ChannelDeliversInOrder : Prop :=
  ∀ (n : Nat) (s t : State) (accepted taken : List Byte), Inv s →
    sessionRun n s = some (accepted, taken, t) → stored s ++ accepted = taken ++ stored t
end

