-- ==== Sys2Proof/Laws/Decode.lean ====
section
/-! SUPPORT. What the decoder can answer, format by format (30_encoding.md rules R70 to R73, R78). -/

namespace Sys2Proof

theorem decodeWrFormat_ok {t : Txn} {i : Instr} (h : decodeWrFormat t = .ok i) :
    descAccessMbz t.desc = 0#20 ∧ ∃ d, t.operand = .word d ∧ i = decodeWrite (descOff t.desc) d := by
  unfold decodeWrFormat at h
  split at h
  · cases h
  · next hm =>
    split at h
    · next d hd => exact ⟨by simpa using hm, d, hd, (Except.ok.inj h).symm⟩
    · cases h
    · cases h

theorem decodeRdFormat_ok {t : Txn} {i : Instr} (h : decodeRdFormat t = .ok i) :
    descAccessMbz t.desc = 0#20 ∧ t.operand = .none ∧ i = decodeRead (descOff t.desc) := by
  unfold decodeRdFormat at h
  split at h
  · cases h
  · next hm =>
    split at h
    · next hd => exact ⟨by simpa using hm, hd, (Except.ok.inj h).symm⟩
    · cases h
    · cases h

theorem decodePushFormat_ok {t : Txn} {i : Instr} (h : decodePushFormat t = .ok i) :
    descPushMbz t.desc = 0#7 ∧ ∃ bs, t.operand = .bytes bs ∧ bs.length = (descLen t.desc).toNat ∧
      i = if descLast t.desc then .pushLast (descTail t.desc) (descErr t.desc) bs
          else .push (descTail t.desc) (descErr t.desc) bs := by
  unfold decodePushFormat at h
  split at h
  · cases h
  · next hm =>
    split at h
    · next bs hb =>
      split at h
      · cases h
      · next hl =>
        refine ⟨by simpa using hm, bs, hb, by simpa using hl, ?_⟩
        split at h
        · next h16 =>
          rw [if_pos h16]
          exact (Except.ok.inj h).symm
        · next h16 =>
          rw [if_neg h16]
          exact (Except.ok.inj h).symm
    · cases h
    · cases h

theorem decodeTickFormat_ok {t : Txn} {i : Instr} (h : decodeTickFormat t = .ok i) :
    descTickMbz t.desc = 0#28 ∧ t.operand = .none ∧ i = .tick := by
  unfold decodeTickFormat at h
  split at h
  · cases h
  · next hm =>
    split at h
    · next hd => exact ⟨by simpa using hm, hd, (Except.ok.inj h).symm⟩
    · cases h
    · cases h

/-- What decodes, decodes in the format of its CLASS. -/
theorem decode_ok_cases {t : Txn} {i : Instr} (h : decode t = .ok i) :
    (descClass t.desc = 1#4 ∧ decodeWrFormat t = .ok i) ∨
    (descClass t.desc = 2#4 ∧ decodeRdFormat t = .ok i) ∨
    (descClass t.desc = 3#4 ∧ decodePushFormat t = .ok i) ∨
    (descClass t.desc = 4#4 ∧ decodeTickFormat t = .ok i) := by
  unfold decode at h
  split at h
  · next h1 => exact .inl ⟨h1, h⟩
  split at h
  · next h2 => exact .inr (.inl ⟨h2, h⟩)
  split at h
  · next h3 => exact .inr (.inr (.inl ⟨h3, h⟩))
  split at h
  · next h4 => exact .inr (.inr (.inr ⟨h4, h⟩))
  · cases h

/-- The rows of format WR. -/
def Instr.isWrite : Instr → Bool
  | .wrCmdNop | .wrCmdOpen | .wrCmdStart | .wrCmdStop | .wrCmdReserved _ | .wrStatus _ | .wrIrqEn _
  | .wrConfig _ | .wrSpb _ | .wrPhaseInc _ | .wrBlock _ | .wrProgress _ | .wrProgSnap _
  | .wrFifoLevel _ | .wrParams _ | .wrErrInfo _ | .wrInvalid _ _ => true
  | .rdCmd | .rdStatus | .rdIrqEn | .rdConfig | .rdSpb | .rdPhaseInc | .rdBlock | .rdProgress
  | .rdProgSnap | .rdFifoLevel | .rdParams | .rdErrInfo | .rdInvalid _ => false
  | .push _ _ _ | .pushLast _ _ _ | .tick => false

/-- The rows of format RD. -/
def Instr.isRead : Instr → Bool
  | .wrCmdNop | .wrCmdOpen | .wrCmdStart | .wrCmdStop | .wrCmdReserved _ | .wrStatus _ | .wrIrqEn _
  | .wrConfig _ | .wrSpb _ | .wrPhaseInc _ | .wrBlock _ | .wrProgress _ | .wrProgSnap _
  | .wrFifoLevel _ | .wrParams _ | .wrErrInfo _ | .wrInvalid _ _ => false
  | .rdCmd | .rdStatus | .rdIrqEn | .rdConfig | .rdSpb | .rdPhaseInc | .rdBlock | .rdProgress
  | .rdProgSnap | .rdFifoLevel | .rdParams | .rdErrInfo | .rdInvalid _ => true
  | .push _ _ _ | .pushLast _ _ _ | .tick => false

theorem decodeCommand_isWrite (d : Word) : (decodeCommand d).isWrite = true := by
  unfold decodeCommand
  split_ifs <;> rfl

/-- The offset of a WR selects a row of format WR. -/
theorem decodeWrite_isWrite (off : Byte) (d : Word) : (decodeWrite off d).isWrite = true := by
  simp only [decodeWrite, apply_ite Instr.isWrite, decodeCommand_isWrite]
  simp only [Instr.isWrite, ite_self]

/-- The offset of an RD selects a row of format RD. -/
theorem decodeRead_isRead (off : Byte) : (decodeRead off).isRead = true := by
  simp only [decodeRead, apply_ite Instr.isRead]
  simp only [Instr.isRead, ite_self]

end Sys2Proof
end

