-- ==== Sys2Proof/Laws/Memory.lean ====
section
/-! SUPPORT. The byte storages: read after write, and the canonical form and the index bound kept by
every operation. -/

namespace Sys2Proof.Machine

theorem wfFrom_mono {lo hi : Nat} (h : lo ≤ hi) {m : Memory} (hm : Memory.wfFrom hi m = true) :
    Memory.wfFrom lo m = true := by
  cases m with
  | nil => rfl
  | cons c m =>
    simp only [Memory.wfFrom, Bool.and_eq_true, decide_eq_true_eq] at hm ⊢
    exact ⟨⟨by omega, hm.1.2⟩, hm.2⟩

/-- Below its first possible index a canonical storage lists nothing. -/
theorem read_below {lo : Nat} {m : Memory} (hm : Memory.wfFrom lo m = true) {k : Nat} (hk : k < lo) :
    m.read k = Memory.blank := by
  induction m generalizing lo with
  | nil => rfl
  | cons c m ih =>
    simp only [Memory.wfFrom, Bool.and_eq_true, decide_eq_true_eq] at hm
    have hne : k ≠ c.1 := by omega
    simp only [Memory.read, if_neg hne]
    exact ih hm.2 (by omega)

theorem read_write_of_wfFrom {lo : Nat} {m : Memory} (hm : Memory.wfFrom lo m = true) (a k : Nat)
    (v : Byte) : (m.write a v).read k = if k = a then v else m.read k := by
  induction m generalizing lo with
  | nil =>
    by_cases hv : v = Memory.blank <;> by_cases hk : k = a <;> simp [Memory.write, Memory.read, hv, hk]
  | cons c m ih =>
    simp only [Memory.wfFrom, Bool.and_eq_true, decide_eq_true_eq] at hm
    have below : ∀ j, j ≤ c.1 → Memory.read m j = Memory.blank := fun j hj => read_below hm.2 (by omega)
    have ih' := ih hm.2
    by_cases hk : k = a
    · subst hk
      rw [if_pos rfl] at ih' ⊢
      rcases Nat.lt_trichotomy k c.1 with h | h | h
      · by_cases hv : v = Memory.blank
        · simp [Memory.write, Memory.read, h, hv, below k h.le, h.ne]
        · simp [Memory.write, Memory.read, h, hv]
      · by_cases hv : v = Memory.blank
        · simp [Memory.write, h, hv, below c.1 le_rfl]
        · simp [Memory.write, Memory.read, h, hv]
      · simp [Memory.write, Memory.read, ih', h.ne', Nat.not_lt.mpr h.le]
    · rw [if_neg hk] at ih' ⊢
      rcases Nat.lt_trichotomy a c.1 with h | h | h
      · by_cases hv : v = Memory.blank
        · simp [Memory.write, Memory.read, h, hv]
        · simp [Memory.write, Memory.read, h, hv, hk]
      · by_cases hv : v = Memory.blank <;> simp [Memory.write, Memory.read, hv, ← h, hk]
      · simp [Memory.write, Memory.read, ih', h.ne', Nat.not_lt.mpr h.le]

/-- Read after write. -/
theorem read_write {m : Memory} (hm : m.wf = true) (a k : Nat) (v : Byte) :
    (m.write a v).read k = if k = a then v else m.read k :=
  read_write_of_wfFrom hm a k v

theorem write_wfFrom {lo : Nat} {m : Memory} (hm : Memory.wfFrom lo m = true) {a : Nat} (ha : lo ≤ a)
    (v : Byte) : Memory.wfFrom lo (m.write a v) = true := by
  induction m generalizing lo with
  | nil => by_cases hv : v = Memory.blank <;> simp [Memory.write, Memory.wfFrom, hv, ha]
  | cons c m ih =>
    simp only [Memory.wfFrom, Bool.and_eq_true, decide_eq_true_eq] at hm
    simp only [Memory.write]
    split_ifs with h1 h2 h3 h4
    · simp [Memory.wfFrom, hm]
    · simp only [Memory.wfFrom, Bool.and_eq_true, decide_eq_true_eq, bne_iff_ne, ne_eq]
      exact ⟨⟨ha, h2⟩, ⟨by omega, by simpa using hm.1.2⟩, hm.2⟩
    · exact wfFrom_mono (by omega) hm.2
    · simp only [Memory.wfFrom, Bool.and_eq_true, decide_eq_true_eq, bne_iff_ne, ne_eq]
      exact ⟨⟨ha, h4⟩, h3 ▸ hm.2⟩
    · simp only [Memory.wfFrom, Bool.and_eq_true, decide_eq_true_eq]
      exact ⟨hm.1, ih hm.2 (by omega)⟩

/-- A write keeps the canonical form. -/
theorem write_wf {m : Memory} (hm : m.wf = true) (a : Nat) (v : Byte) : (m.write a v).wf = true :=
  write_wfFrom hm (Nat.zero_le a) v

/-- Writing bytes keeps the canonical form. -/
theorem writeBytes_wf {m : Memory} (hm : m.wf = true) (a : Nat) (bs : List Byte) :
    (m.writeBytes a bs).wf = true := by
  induction bs generalizing m a with
  | nil => exact hm
  | cons b bs ih => exact ih (write_wf hm a b) (a + 1)

/-- Reading after writing bytes. -/
theorem read_writeBytes {m : Memory} (hm : m.wf = true) (a : Nat) (bs : List Byte) (k : Nat) :
    (m.writeBytes a bs).read k =
      if a ≤ k ∧ k < a + bs.length then bs.getD (k - a) Memory.blank else m.read k := by
  induction bs generalizing m a with
  | nil =>
    have h : ¬ (a ≤ k ∧ k < a + ([] : List Byte).length) := by simp
    rw [if_neg h]
    rfl
  | cons b bs ih =>
    simp only [Memory.writeBytes]
    rw [ih (write_wf hm a b), read_write hm]
    by_cases hka : k = a
    · subst hka
      simp
    · by_cases h : a ≤ k ∧ k < a + (b :: bs).length
      · have h' : a + 1 ≤ k ∧ k < a + 1 + bs.length := by
          simp only [List.length_cons] at h
          omega
        rw [if_pos h', if_pos h]
        obtain ⟨j, rfl⟩ : ∃ j, k = a + 1 + j := ⟨k - (a + 1), by omega⟩
        have e1 : a + 1 + j - (a + 1) = j := by omega
        have e2 : a + 1 + j - a = j + 1 := by omega
        rw [e1, e2, List.getD_cons_succ]
      · have h' : ¬ (a + 1 ≤ k ∧ k < a + 1 + bs.length) := by
          simp only [List.length_cons] at h
          omega
        rw [if_neg h', if_neg h, if_neg hka]

theorem write_within {n : Nat} {m : Memory} (hm : m.Within n) {a : Nat} (ha : a < n) (v : Byte) :
    (m.write a v).Within n := by
  induction m with
  | nil => by_cases hv : v = Memory.blank <;> simp [Memory.write, hv, ha]
  | cons c m ih =>
    have hc : c.1 < n := hm c (by simp)
    have hm' : Memory.Within n m := fun x hx => hm x (by simp [hx])
    intro x hx
    simp only [Memory.write] at hx
    split_ifs at hx
    · exact hm x hx
    · rcases List.mem_cons.mp hx with rfl | hx
      exacts [ha, hm x hx]
    · exact hm' x hx
    · rcases List.mem_cons.mp hx with rfl | hx
      exacts [ha, hm' x hx]
    · rcases List.mem_cons.mp hx with rfl | hx
      exacts [hc, ih hm' x hx]

/-- Writing bytes inside the bound keeps every listed index inside it. -/
theorem writeBytes_within {n : Nat} {m : Memory} (hm : m.Within n) {a : Nat} {bs : List Byte}
    (h : a + bs.length ≤ n) : (m.writeBytes a bs).Within n := by
  induction bs generalizing m a with
  | nil => exact hm
  | cons b bs ih =>
    simp only [List.length_cons] at h
    exact ih (write_within hm (by omega) b) (by omega)

@[simp] theorem readBytes_length (m : Memory) (a n : Nat) : (m.readBytes a n).length = n := by
  induction n generalizing a with
  | zero => rfl
  | succ n ih => simp [Memory.readBytes, ih]

/-- The bytes read are the bytes at consecutive indices. -/
theorem readBytes_eq_map (m : Memory) (a n : Nat) :
    m.readBytes a n = (List.range n).map fun i => m.read (a + i) := by
  induction n generalizing a with
  | zero => rfl
  | succ n ih =>
    rw [List.range_succ_eq_map, List.map_cons, List.map_map, Memory.readBytes, ih]
    congr 1
    apply List.map_congr_left
    intro i _
    simp only [Function.comp, Nat.succ_eq_add_one]
    congr 1
    omega

end Sys2Proof.Machine
end

