-- ==== Sys2Proof/Laws/State.lean ====
section
/-! SUPPORT. One lemma for each field of each named update of the state, so that no proof unfolds an
update. -/

namespace Sys2Proof.Machine

@[simp] theorem observe_params (o : Obs) (s : State) : (observe o s).params = s.params := rfl
@[simp] theorem observe_fifo (o : Obs) (s : State) : (observe o s).fifo = s.fifo := rfl
@[simp] theorem observe_prd (o : Obs) (s : State) : (observe o s).prd = s.prd := rfl
@[simp] theorem observe_syn (o : Obs) (s : State) : (observe o s).syn = s.syn := rfl
@[simp] theorem observe_reg (o : Obs) (s : State) : (observe o s).reg = s.reg := rfl
@[simp] theorem observe_inbox (o : Obs) (s : State) : (observe o s).inbox = s.inbox := rfl
@[simp] theorem observe_trace (o : Obs) (s : State) : (observe o s).trace = s.trace ++ [o] := rfl
@[simp] theorem observe_cap (o : Obs) (s : State) : (observe o s).cap = s.cap := rfl

@[simp] theorem respond_params (r : Response) (s : State) : (respond r s).params = s.params := rfl
@[simp] theorem respond_fifo (r : Response) (s : State) : (respond r s).fifo = s.fifo := rfl
@[simp] theorem respond_prd (r : Response) (s : State) : (respond r s).prd = s.prd := rfl
@[simp] theorem respond_syn (r : Response) (s : State) : (respond r s).syn = s.syn := rfl
@[simp] theorem respond_reg (r : Response) (s : State) : (respond r s).reg = s.reg := rfl
@[simp] theorem respond_inbox (r : Response) (s : State) : (respond r s).inbox = s.inbox := rfl
@[simp] theorem respond_trace (r : Response) (s : State) : (respond r s).trace = s.trace ++ [.response r] := rfl
@[simp] theorem respond_cap (r : Response) (s : State) : (respond r s).cap = s.cap := rfl

@[simp] theorem emit_params (x : Sample) (s : State) : (emit x s).params = s.params := rfl
@[simp] theorem emit_fifo (x : Sample) (s : State) : (emit x s).fifo = s.fifo := rfl
@[simp] theorem emit_prd (x : Sample) (s : State) : (emit x s).prd = s.prd := rfl
@[simp] theorem emit_syn (x : Sample) (s : State) : (emit x s).syn = s.syn := rfl
@[simp] theorem emit_reg (x : Sample) (s : State) : (emit x s).reg = s.reg := rfl
@[simp] theorem emit_inbox (x : Sample) (s : State) : (emit x s).inbox = s.inbox := rfl
@[simp] theorem emit_trace (x : Sample) (s : State) : (emit x s).trace = s.trace ++ [.sample x] := rfl
@[simp] theorem emit_cap (x : Sample) (s : State) : (emit x s).cap = s.cap := rfl

@[simp] theorem raiseCmdErr_params (c : CmdCause) (s : State) : (raiseCmdErr c s).params = s.params := rfl
@[simp] theorem raiseCmdErr_fifo (c : CmdCause) (s : State) : (raiseCmdErr c s).fifo = s.fifo := rfl
@[simp] theorem raiseCmdErr_prd (c : CmdCause) (s : State) : (raiseCmdErr c s).prd = s.prd := rfl
@[simp] theorem raiseCmdErr_syn (c : CmdCause) (s : State) : (raiseCmdErr c s).syn = s.syn := rfl
@[simp] theorem raiseCmdErr_reg (c : CmdCause) (s : State) : (raiseCmdErr c s).reg = { s.reg with cmdErr := true, errCode := cmdCode c, errOff := 0x00#8 } := rfl
@[simp] theorem raiseCmdErr_inbox (c : CmdCause) (s : State) : (raiseCmdErr c s).inbox = s.inbox := rfl
@[simp] theorem raiseCmdErr_trace (c : CmdCause) (s : State) : (raiseCmdErr c s).trace = s.trace := rfl
@[simp] theorem raiseCmdErr_cap (c : CmdCause) (s : State) : (raiseCmdErr c s).cap = s.cap := rfl

@[simp] theorem raiseAccErr_params (c : AccCause) (off : Byte) (s : State) : (raiseAccErr c off s).params = s.params := rfl
@[simp] theorem raiseAccErr_fifo (c : AccCause) (off : Byte) (s : State) : (raiseAccErr c off s).fifo = s.fifo := rfl
@[simp] theorem raiseAccErr_prd (c : AccCause) (off : Byte) (s : State) : (raiseAccErr c off s).prd = s.prd := rfl
@[simp] theorem raiseAccErr_syn (c : AccCause) (off : Byte) (s : State) : (raiseAccErr c off s).syn = s.syn := rfl
@[simp] theorem raiseAccErr_reg (c : AccCause) (off : Byte) (s : State) : (raiseAccErr c off s).reg = { s.reg with accErr := true, errCode := accCode c, errOff := off } := rfl
@[simp] theorem raiseAccErr_inbox (c : AccCause) (off : Byte) (s : State) : (raiseAccErr c off s).inbox = s.inbox := rfl
@[simp] theorem raiseAccErr_trace (c : AccCause) (off : Byte) (s : State) : (raiseAccErr c off s).trace = s.trace := rfl
@[simp] theorem raiseAccErr_cap (c : AccCause) (off : Byte) (s : State) : (raiseAccErr c off s).cap = s.cap := rfl

@[simp] theorem fifoDrop_params (n : Nat) (s : State) : (fifoDrop n s).params = s.params := rfl
@[simp] theorem fifoDrop_fifo (n : Nat) (s : State) : (fifoDrop n s).fifo = { s.fifo with rd := (s.fifo.rd + n) % s.cap, count := s.fifo.count - n } := rfl
@[simp] theorem fifoDrop_prd (n : Nat) (s : State) : (fifoDrop n s).prd = s.prd := rfl
@[simp] theorem fifoDrop_syn (n : Nat) (s : State) : (fifoDrop n s).syn = s.syn := rfl
@[simp] theorem fifoDrop_reg (n : Nat) (s : State) : (fifoDrop n s).reg = s.reg := rfl
@[simp] theorem fifoDrop_inbox (n : Nat) (s : State) : (fifoDrop n s).inbox = s.inbox := rfl
@[simp] theorem fifoDrop_trace (n : Nat) (s : State) : (fifoDrop n s).trace = s.trace := rfl
@[simp] theorem fifoDrop_cap (n : Nat) (s : State) : (fifoDrop n s).cap = s.cap := rfl

@[simp] theorem fifoWrite_params (bs : List Byte) (s : State) : (fifoWrite bs s).params = s.params := rfl
@[simp] theorem fifoWrite_fifo (bs : List Byte) (s : State) : (fifoWrite bs s).fifo = { s.fifo with mem := s.fifo.mem.writeBytes s.wr bs, count := s.fifo.count + bs.length } := rfl
@[simp] theorem fifoWrite_prd (bs : List Byte) (s : State) : (fifoWrite bs s).prd = s.prd := rfl
@[simp] theorem fifoWrite_syn (bs : List Byte) (s : State) : (fifoWrite bs s).syn = s.syn := rfl
@[simp] theorem fifoWrite_reg (bs : List Byte) (s : State) : (fifoWrite bs s).reg = s.reg := rfl
@[simp] theorem fifoWrite_inbox (bs : List Byte) (s : State) : (fifoWrite bs s).inbox = s.inbox := rfl
@[simp] theorem fifoWrite_trace (bs : List Byte) (s : State) : (fifoWrite bs s).trace = s.trace := rfl
@[simp] theorem fifoWrite_cap (bs : List Byte) (s : State) : (fifoWrite bs s).cap = s.cap := rfl

@[simp] theorem flush_params (s : State) : (flush s).params = s.params := rfl
@[simp] theorem flush_fifo (s : State) : (flush s).fifo = { s.fifo with mem := [], rd := 0, count := 0, eos := false, tail := 0#3 } := rfl
@[simp] theorem flush_prd (s : State) : (flush s).prd = s.prd := rfl
@[simp] theorem flush_syn (s : State) : (flush s).syn = s.syn := rfl
@[simp] theorem flush_reg (s : State) : (flush s).reg = s.reg := rfl
@[simp] theorem flush_inbox (s : State) : (flush s).inbox = s.inbox := rfl
@[simp] theorem flush_trace (s : State) : (flush s).trace = s.trace := rfl
@[simp] theorem flush_cap (s : State) : (flush s).cap = s.cap := rfl

@[simp] theorem endStream_params (tail : BitVec 3) (err : Bool) (s : State) : (endStream tail err s).params = s.params := rfl
@[simp] theorem endStream_fifo (tail : BitVec 3) (err : Bool) (s : State) : (endStream tail err s).fifo = { s.fifo with eos := true, tail := tail } := rfl
@[simp] theorem endStream_prd (tail : BitVec 3) (err : Bool) (s : State) : (endStream tail err s).prd = s.prd := rfl
@[simp] theorem endStream_syn (tail : BitVec 3) (err : Bool) (s : State) : (endStream tail err s).syn = s.syn := rfl
@[simp] theorem endStream_reg (tail : BitVec 3) (err : Bool) (s : State) : (endStream tail err s).reg = { s.reg with rdErr := s.reg.rdErr || err } := rfl
@[simp] theorem endStream_inbox (tail : BitVec 3) (err : Bool) (s : State) : (endStream tail err s).inbox = s.inbox := rfl
@[simp] theorem endStream_trace (tail : BitVec 3) (err : Bool) (s : State) : (endStream tail err s).trace = s.trace := rfl
@[simp] theorem endStream_cap (tail : BitVec 3) (err : Bool) (s : State) : (endStream tail err s).cap = s.cap := rfl

@[simp] theorem startTransmission_params (s : State) : (startTransmission s).params = s.params := rfl
@[simp] theorem startTransmission_fifo (s : State) : (startTransmission s).fifo = s.fifo := rfl
@[simp] theorem startTransmission_prd (s : State) : (startTransmission s).prd = s.prd := rfl
@[simp] theorem startTransmission_syn (s : State) : (startTransmission s).syn = { state := .running, bs := { index := s.reg.spb, total := s.reg.spb }, bc := Cursor.zero, curBit := false, lbuf := [], phase := 0#32, blk := 0#32, starved := false } := rfl
@[simp] theorem startTransmission_reg (s : State) : (startTransmission s).reg = { s.reg with progress := 0#32, progSnap := 0#32 } := rfl
@[simp] theorem startTransmission_inbox (s : State) : (startTransmission s).inbox = s.inbox := rfl
@[simp] theorem startTransmission_trace (s : State) : (startTransmission s).trace = s.trace := rfl

@[simp] theorem emitCarrier_params (env : Bool) (s : State) : (emitCarrier env s).params = s.params := rfl
@[simp] theorem emitCarrier_fifo (env : Bool) (s : State) : (emitCarrier env s).fifo = s.fifo := rfl
@[simp] theorem emitCarrier_prd (env : Bool) (s : State) : (emitCarrier env s).prd = s.prd := rfl
@[simp] theorem emitCarrier_syn (env : Bool) (s : State) : (emitCarrier env s).syn = { s.syn with phase := s.syn.phase + s.reg.phaseInc } := rfl
@[simp] theorem emitCarrier_reg (env : Bool) (s : State) : (emitCarrier env s).reg = s.reg := rfl
@[simp] theorem emitCarrier_inbox (env : Bool) (s : State) : (emitCarrier env s).inbox = s.inbox := rfl
@[simp] theorem emitCarrier_trace (env : Bool) (s : State) : (emitCarrier env s).trace = s.trace ++ [.sample (envelopeSample env s.syn.phase)] := rfl

@[simp] theorem complete_params (s : State) : (complete s).params = s.params := rfl
@[simp] theorem complete_fifo (s : State) : (complete s).fifo = s.fifo := rfl
@[simp] theorem complete_prd (s : State) : (complete s).prd = s.prd := rfl
@[simp] theorem complete_syn (s : State) : (complete s).syn = { s.syn with state := .done } := rfl
@[simp] theorem complete_reg (s : State) : (complete s).reg = { s.reg with done := true, progSnap := s.reg.progress } := rfl
@[simp] theorem complete_inbox (s : State) : (complete s).inbox = s.inbox := rfl
@[simp] theorem complete_trace (s : State) : (complete s).trace = s.trace ++ [.sample (silence false)] := rfl

@[simp] theorem idleTick_params (s : State) : (idleTick s).params = s.params := rfl
@[simp] theorem idleTick_fifo (s : State) : (idleTick s).fifo = s.fifo := rfl
@[simp] theorem idleTick_prd (s : State) : (idleTick s).prd = s.prd := rfl
@[simp] theorem idleTick_syn (s : State) : (idleTick s).syn = s.syn := rfl
@[simp] theorem idleTick_reg (s : State) : (idleTick s).reg = s.reg := rfl
@[simp] theorem idleTick_inbox (s : State) : (idleTick s).inbox = s.inbox := rfl
@[simp] theorem idleTick_trace (s : State) : (idleTick s).trace = s.trace ++ [.sample (silence false)] := rfl

@[simp] theorem resetBlock_params (s : State) : (resetBlock s).params = s.params := rfl
@[simp] theorem resetBlock_fifo (s : State) : (resetBlock s).fifo = Fifo.initial := rfl
@[simp] theorem resetBlock_prd (s : State) : (resetBlock s).prd = { pending := none } := rfl
@[simp] theorem resetBlock_syn (s : State) : (resetBlock s).syn = Syn.initial := rfl
@[simp] theorem resetBlock_reg (s : State) : (resetBlock s).reg = Reg.initial := rfl
@[simp] theorem resetBlock_inbox (s : State) : (resetBlock s).inbox = s.inbox := rfl
@[simp] theorem resetBlock_trace (s : State) : (resetBlock s).trace = (terminatePending s).trace := rfl

@[simp] theorem withFetchWord_params (nbits w : Nat) (s : State) : (s.withFetchWord nbits w).params = s.params := rfl
@[simp] theorem withFetchWord_fifo (nbits w : Nat) (s : State) : (s.withFetchWord nbits w).fifo = s.fifo := rfl
@[simp] theorem withFetchWord_prd (nbits w : Nat) (s : State) : (s.withFetchWord nbits w).prd = s.prd := rfl
@[simp] theorem withFetchWord_syn (nbits w : Nat) (s : State) : (s.withFetchWord nbits w).syn = s.syn := rfl
@[simp] theorem withFetchWord_reg (nbits w : Nat) (s : State) : (s.withFetchWord nbits w).reg = s.reg := rfl
@[simp] theorem withFetchWord_inbox (nbits w : Nat) (s : State) : (s.withFetchWord nbits w).inbox = .txn (txnOfBits nbits w) :: s.inbox := rfl
@[simp] theorem withFetchWord_trace (nbits w : Nat) (s : State) : (s.withFetchWord nbits w).trace = s.trace := rfl

@[simp] theorem terminatePending_params (s : State) : (terminatePending s).params = s.params := by
  unfold terminatePending
  split <;> rfl

@[simp] theorem terminatePending_fifo (s : State) : (terminatePending s).fifo = s.fifo := by
  unfold terminatePending
  split <;> rfl

@[simp] theorem terminatePending_prd (s : State) : (terminatePending s).prd = { pending := none } := by
  unfold terminatePending
  split
  · next h => rw [← h]
  · rfl

@[simp] theorem terminatePending_syn (s : State) : (terminatePending s).syn = s.syn := by
  unfold terminatePending
  split <;> rfl

@[simp] theorem terminatePending_reg (s : State) : (terminatePending s).reg = s.reg := by
  unfold terminatePending
  split <;> rfl

@[simp] theorem terminatePending_inbox (s : State) : (terminatePending s).inbox = s.inbox := by
  unfold terminatePending
  split <;> rfl

@[simp] theorem terminatePending_trace (s : State) : (terminatePending s).trace = if s.prd.pending = none then s.trace else s.trace ++ [.response .term] := by
  unfold terminatePending
  split <;> simp_all

@[simp] theorem openChannel_params (s : State) : (openChannel s).params = s.params := by simp [openChannel]
@[simp] theorem openChannel_fifo (s : State) : (openChannel s).fifo = { mem := [], rd := 0, count := 0, isOpen := true, eos := false, tail := 0#3 } := by simp [openChannel]
@[simp] theorem openChannel_prd (s : State) : (openChannel s).prd = { pending := none } := by simp [openChannel]
@[simp] theorem openChannel_syn (s : State) : (openChannel s).syn = s.syn := by simp [openChannel]
@[simp] theorem openChannel_reg (s : State) : (openChannel s).reg = s.reg := by simp [openChannel]
@[simp] theorem openChannel_inbox (s : State) : (openChannel s).inbox = s.inbox := by simp [openChannel]
@[simp] theorem openChannel_trace (s : State) : (openChannel s).trace = if s.prd.pending = none then s.trace else s.trace ++ [.response .term] := by simp [openChannel]

@[simp] theorem stopTransmission_params (s : State) : (stopTransmission s).params = s.params := by simp [stopTransmission]
@[simp] theorem stopTransmission_fifo (s : State) : (stopTransmission s).fifo = Fifo.initial := by simp [stopTransmission, Fifo.initial]
@[simp] theorem stopTransmission_prd (s : State) : (stopTransmission s).prd = { pending := none } := by simp [stopTransmission]
@[simp] theorem stopTransmission_syn (s : State) : (stopTransmission s).syn = Syn.initial := by simp [stopTransmission]
@[simp] theorem stopTransmission_reg (s : State) : (stopTransmission s).reg = s.reg := by simp [stopTransmission]
@[simp] theorem stopTransmission_inbox (s : State) : (stopTransmission s).inbox = s.inbox := by simp [stopTransmission]
@[simp] theorem stopTransmission_trace (s : State) : (stopTransmission s).trace = if s.prd.pending = none then s.trace else s.trace ++ [.response .term] := by simp [stopTransmission]

@[simp] theorem progressTick_params (s : State) : (progressTick s).params = s.params := by
  unfold progressTick
  split_ifs <;> rfl

@[simp] theorem progressTick_fifo (s : State) : (progressTick s).fifo = s.fifo := by
  unfold progressTick
  split_ifs <;> rfl

@[simp] theorem progressTick_prd (s : State) : (progressTick s).prd = s.prd := by
  unfold progressTick
  split_ifs <;> rfl

@[simp] theorem progressTick_inbox (s : State) : (progressTick s).inbox = s.inbox := by
  unfold progressTick
  split_ifs <;> rfl

@[simp] theorem progressTick_trace (s : State) : (progressTick s).trace = s.trace := by
  unfold progressTick
  split_ifs <;> rfl

@[simp] theorem progressTick_syn_state (s : State) : (progressTick s).syn.state = s.syn.state := by
  unfold progressTick
  split_ifs <;> rfl

@[simp] theorem progressTick_syn_bs (s : State) : (progressTick s).syn.bs = s.syn.bs := by
  unfold progressTick
  split_ifs <;> rfl

@[simp] theorem progressTick_syn_bc (s : State) : (progressTick s).syn.bc = s.syn.bc := by
  unfold progressTick
  split_ifs <;> rfl

@[simp] theorem progressTick_syn_curBit (s : State) : (progressTick s).syn.curBit = s.syn.curBit := by
  unfold progressTick
  split_ifs <;> rfl

@[simp] theorem progressTick_syn_lbuf (s : State) : (progressTick s).syn.lbuf = s.syn.lbuf := by
  unfold progressTick
  split_ifs <;> rfl

@[simp] theorem progressTick_syn_phase (s : State) : (progressTick s).syn.phase = s.syn.phase := by
  unfold progressTick
  split_ifs <;> rfl

@[simp] theorem progressTick_syn_starved (s : State) : (progressTick s).syn.starved = s.syn.starved := by
  unfold progressTick
  split_ifs <;> rfl

@[simp] theorem progressTick_reg_done (s : State) : (progressTick s).reg.done = s.reg.done := by
  unfold progressTick
  split_ifs <;> rfl

@[simp] theorem progressTick_reg_rdErr (s : State) : (progressTick s).reg.rdErr = s.reg.rdErr := by
  unfold progressTick
  split_ifs <;> rfl

@[simp] theorem progressTick_reg_cmdErr (s : State) : (progressTick s).reg.cmdErr = s.reg.cmdErr := by
  unfold progressTick
  split_ifs <;> rfl

@[simp] theorem progressTick_reg_accErr (s : State) : (progressTick s).reg.accErr = s.reg.accErr := by
  unfold progressTick
  split_ifs <;> rfl

@[simp] theorem progressTick_reg_irqEn (s : State) : (progressTick s).reg.irqEn = s.reg.irqEn := by
  unfold progressTick
  split_ifs <;> rfl

@[simp] theorem progressTick_reg_starvePolicy (s : State) : (progressTick s).reg.starvePolicy = s.reg.starvePolicy := by
  unfold progressTick
  split_ifs <;> rfl

@[simp] theorem progressTick_reg_spb (s : State) : (progressTick s).reg.spb = s.reg.spb := by
  unfold progressTick
  split_ifs <;> rfl

@[simp] theorem progressTick_reg_phaseInc (s : State) : (progressTick s).reg.phaseInc = s.reg.phaseInc := by
  unfold progressTick
  split_ifs <;> rfl

@[simp] theorem progressTick_reg_block (s : State) : (progressTick s).reg.block = s.reg.block := by
  unfold progressTick
  split_ifs <;> rfl

@[simp] theorem progressTick_reg_progress (s : State) : (progressTick s).reg.progress = s.reg.progress := by
  unfold progressTick
  split_ifs <;> rfl

@[simp] theorem progressTick_reg_errCode (s : State) : (progressTick s).reg.errCode = s.reg.errCode := by
  unfold progressTick
  split_ifs <;> rfl

@[simp] theorem progressTick_reg_errOff (s : State) : (progressTick s).reg.errOff = s.reg.errOff := by
  unfold progressTick
  split_ifs <;> rfl

@[simp] theorem refill_params (s : State) : (refill s).params = s.params := by
  simp only [refill]
  split_ifs <;> rfl

@[simp] theorem refill_prd (s : State) : (refill s).prd = s.prd := by
  simp only [refill]
  split_ifs <;> rfl

@[simp] theorem refill_inbox (s : State) : (refill s).inbox = s.inbox := by
  simp only [refill]
  split_ifs <;> rfl

@[simp] theorem refill_trace (s : State) : (refill s).trace = s.trace := by
  simp only [refill]
  split_ifs <;> rfl

@[simp] theorem refill_fifo (s : State) : (refill s).fifo = (fifoDrop (refillCount s) s).fifo := by
  simp only [refill]
  split_ifs <;> rfl

@[simp] theorem refill_reg (s : State) : (refill s).reg =
    { s.reg with progress := s.reg.progress + BitVec.ofNat 32 (refillCount s) } := by
  simp only [refill]
  split_ifs <;> rfl

@[simp] theorem refill_syn_state (s : State) : (refill s).syn.state = s.syn.state := by
  simp only [refill]
  split_ifs <;> rfl

@[simp] theorem refill_syn_bs (s : State) : (refill s).syn.bs = s.syn.bs := by
  simp only [refill]
  split_ifs <;> rfl

@[simp] theorem refill_syn_curBit (s : State) : (refill s).syn.curBit = s.syn.curBit := by
  simp only [refill]
  split_ifs <;> rfl

@[simp] theorem refill_syn_phase (s : State) : (refill s).syn.phase = s.syn.phase := by
  simp only [refill]
  split_ifs <;> rfl

@[simp] theorem refill_syn_blk (s : State) : (refill s).syn.blk = s.syn.blk := by
  simp only [refill]
  split_ifs <;> rfl

@[simp] theorem refill_syn_starved (s : State) : (refill s).syn.starved = s.syn.starved := by
  simp only [refill]
  split_ifs <;> rfl

@[simp] theorem refill_syn_lbuf (s : State) :
    (refill s).syn.lbuf = s.syn.lbuf.writeBytes 0 (fifoPeek (refillCount s) s) := by
  simp only [refill]
  split_ifs <;> rfl

theorem refill_syn_bc (s : State) : (refill s).syn.bc =
    if 0 < refillCount s then
      { index := 0#32, total := BitVec.ofNat 32 (8 * refillCount s - padBits (fifoDrop (refillCount s) s)) }
    else s.syn.bc := by
  simp only [refill]
  split_ifs <;> rfl

end Sys2Proof.Machine
end

