-- ==== Sys2Proof/Laws/Ops.lean ====
section
/-! SUPPORT. What each shared operation can do, said once: the provers cite these instead of unfolding
it. -/

namespace Sys2Proof.Machine

/-! ### Channel arithmetic -/

theorem cap_pos (s : State) : 0 < s.cap := Nat.two_pow_pos _

theorem wr_lt_cap (s : State) : s.wr < s.cap := Nat.mod_lt _ (cap_pos s)

/-- FifoWrite never passes the end of the ring (20_memory.md rule R55). -/
theorem wr_add_freeRun_le (s : State) : s.wr + s.freeRun ≤ s.cap := by
  have := wr_lt_cap s
  unfold State.freeRun
  omega

theorem freeRun_le (s : State) : s.freeRun ≤ s.cap - s.fifo.count := Nat.min_le_left _ _

theorem dataRun_le_count (s : State) : s.dataRun ≤ s.fifo.count := Nat.min_le_left _ _

/-- FifoRead never wraps within one call (20_memory.md rule R54). -/
theorem dataRun_le_room (s : State) : s.dataRun ≤ s.cap - s.fifo.rd := Nat.min_le_right _ _

theorem refillCount_le_lbuf (s : State) : refillCount s ≤ s.params.lbufBytes := Nat.min_le_left _ _

theorem refillCount_le_dataRun (s : State) : refillCount s ≤ s.dataRun := Nat.min_le_right _ _

@[simp] theorem fifoPeek_length (n : Nat) (s : State) : (fifoPeek n s).length = n := by
  simp [fifoPeek]

theorem padBits_le (s : State) : padBits s ≤ 7 := by
  unfold padBits
  split_ifs with h
  · have : s.fifo.tail.toNat ≠ 0 := by
      intro h0
      have : s.fifo.tail = 0#3 := BitVec.eq_of_toNat_eq (by simpa using h0)
      simp [this] at h
    omega
  · omega

/-! ### Cursors -/

theorem isDone_iff (c : Cursor) : c.isDone = true ↔ c.total.toNat ≤ c.index.toNat := by
  simp [Cursor.isDone, BitVec.le_def]

/-- `is_last` on the unsigned values: no further index is below `total`. -/
theorem isLast_iff (c : Cursor) : c.isLast = true ↔ c.total.toNat ≤ c.index.toNat + 1 := by
  have h1 := c.index.isLt
  have h2 := c.total.isLt
  simp only [Cursor.isLast, Bool.or_eq_true, decide_eq_true_eq, isDone_iff, ← BitVec.toNat_inj,
    BitVec.toNat_sub, BitVec.toNat_ofNat]
  omega

/-! ### Register words -/

/-- One flag's contribution to a composed register word. -/
theorem getLsbD_bitAt (b : Bool) (k n : Nat) :
    (bitAt b k).getLsbD n = (b && decide (n = k) && decide (k < 32)) := by
  simp only [bitAt, BitVec.getLsbD_shiftLeft, BitVec.getLsbD_setWidth, BitVec.getLsbD_ofBool]
  by_cases h : k < 32 <;> by_cases hn : n = k <;> cases b <;> simp [h, hn] <;> omega

/-! ### Offsets -/

/-- The offset check finds a cause exactly where the offset selects no register
(40_control_port.md rule R92, 30_encoding.md rule R79). -/
theorem offsetCheck_isSome (off : Byte) : (offsetCheck off).isSome = offsetInvalid off := by
  unfold offsetCheck offsetInvalid
  split_ifs with h1 h2 <;> simp_all

/-! ### Answering -/

/-- A configuration write records CFG_RUNNING or stores (40_control_port.md rules R113 to R116). -/
theorem configWrite_cases {off : Byte} {r : Reg} {s t : State}
    (h : configWrite off r s = .next t) :
    (s.syn.state = .running ∧ t = raiseAccErr .cfgRunning off s) ∨
    (s.syn.state ≠ .running ∧ t = { s with reg := r }) := by
  unfold configWrite at h
  split_ifs at h with hr
  · cases h
    exact .inl ⟨hr, rfl⟩
  · cases h
    exact .inr ⟨hr, rfl⟩

/-- A push issue waits, is answered TERM, or becomes pending (41_producer_port.md rule R131). -/
theorem issuePush_cases {r : PushReq} {s t : State} (h : issuePush r s = .next t) :
    r.data.length < 65536 ∧
    ((s.prd.pending.isSome = true ∧ t = s) ∨
     (s.prd.pending = none ∧ s.fifo.isOpen = false ∧ t = respond .term s) ∨
     (s.prd.pending = none ∧ s.fifo.isOpen = true ∧ t = { s with prd := { pending := some r } })) := by
  unfold issuePush at h
  split_ifs at h with h1 h2 h3
  · exact ⟨by simpa [pushLengthOk] using h1, .inl ⟨h2, by cases h; rfl⟩⟩
  · exact ⟨by simpa [pushLengthOk] using h1, .inr (.inl ⟨by simpa using h2, h3, by cases h; rfl⟩)⟩
  · exact ⟨by simpa [pushLengthOk] using h1,
      .inr (.inr ⟨by simpa using h2, by simpa using h3, by cases h; rfl⟩)⟩

/-- The three ways a perform goes: PROTO, an empty push, bytes stored (41_producer_port.md rule R133). -/
theorem performReq_cases (r : PushReq) (s : State) :
    (proto r s = true ∧ performReq r s = respond .proto s) ∨
    (proto r s = false ∧ r.data.length = 0 ∧
      performReq r s = respond (.accept 0#16) (if r.last then endStream 0#3 r.err s else s)) ∨
    (proto r s = false ∧ 0 < r.data.length ∧
      performReq r s = respond (.accept (BitVec.ofNat 16 (min r.data.length s.freeRun)))
        (if r.last && decide (min r.data.length s.freeRun = r.data.length)
          then endStream r.tail r.err (fifoWrite (r.data.take (min r.data.length s.freeRun)) s)
          else fifoWrite (r.data.take (min r.data.length s.freeRun)) s)) := by
  unfold performReq
  by_cases h1 : proto r s = true
  · exact .inl ⟨h1, if_pos h1⟩
  · rw [if_neg h1]
    by_cases h2 : r.data.length = 0
    · exact .inr (.inl ⟨by simpa using h1, h2, if_pos h2⟩)
    · exact .inr (.inr ⟨by simpa using h1, by omega, if_neg h2⟩)

/-- A perform leaves everything where it is not enabled, and else performs the pending request taken off
the port (41_producer_port.md rule R133). -/
theorem perform_cases (s : State) :
    (performEnabled s = false ∧ perform s = s) ∨
    (performEnabled s = true ∧ ∃ r, s.prd.pending = some r ∧ held s = false ∧
      perform s = performReq r { s with prd := { pending := none } }) := by
  unfold performEnabled perform
  cases hp : s.prd.pending with
  | none => exact .inl ⟨by simp, rfl⟩
  | some r =>
    cases hh : held s with
    | true => exact .inl ⟨by simp, by simp⟩
    | false => exact .inr ⟨by simp, r, rfl, rfl, by simp⟩

/-! ### The tick -/

/-- Loading a bit faults only past the local buffer (42_synthesizer.md rules R152, R154). -/
theorem loadBit_cases (s : State) :
    (s.syn.bc.index.toNat < 8 * s.params.lbufBytes ∧
      loadBit s = .ok (.bit, { s with syn := { s.syn with
        curBit := lbufBit s.syn.bc.index.toNat s, bs := s.syn.bs.startOver.bump } })) ∨
    (8 * s.params.lbufBytes ≤ s.syn.bc.index.toNat ∧ loadBit s = .error .lbufIndex) := by
  unfold loadBit
  split_ifs with h
  · exact .inl ⟨h, rfl⟩
  · exact .inr ⟨by omega, rfl⟩

/-- The five ways a running tick goes (42_synthesizer.md rules R152, R155). -/
theorem tickAdvance_cases (s : State) :
    (s.syn.bs.isDone = false ∧
      tickAdvance s = .ok (.bit, { s with syn := { s.syn with bs := s.syn.bs.bump } })) ∨
    (s.syn.bs.isDone = true ∧ s.syn.bc.isLast = false ∧
      tickAdvance s = loadBit { s with syn := { s.syn with bc := s.syn.bc.bump } }) ∨
    (s.syn.bs.isDone = true ∧ s.syn.bc.isLast = true ∧ refillCount s ≠ 0 ∧
      tickAdvance s = loadBit (refill s)) ∨
    (s.syn.bs.isDone = true ∧ s.syn.bc.isLast = true ∧ refillCount s = 0 ∧
      (s.reg.starvePolicy && !s.fifo.eos) = true ∧ tickAdvance s = .ok (.starved, refill s)) ∨
    (s.syn.bs.isDone = true ∧ s.syn.bc.isLast = true ∧ refillCount s = 0 ∧
      (s.reg.starvePolicy && !s.fifo.eos) = false ∧ tickAdvance s = .ok (.completed, refill s)) := by
  unfold tickAdvance
  cases hb : s.syn.bs.isDone <;> cases hl : s.syn.bc.isLast <;> by_cases hr : refillCount s = 0 <;>
    cases hp : (s.reg.starvePolicy && !s.fifo.eos) <;> simp_all

/-- A tick that goes on is an idle tick, or a running tick whose advance succeeded
(42_synthesizer.md rule R150). -/
theorem execTick_cases {s t : State} (h : execTick s = .next t) :
    (s.syn.state ≠ .running ∧ t = idleTick s) ∨
    (s.syn.state = .running ∧ ∃ turn s1, tickAdvance s = .ok (turn, s1) ∧
      t = progressTick (tickEmit turn s1)) := by
  unfold execTick runningTick at h
  split_ifs at h with hr
  · split at h
    · next turn s1 ha =>
      cases h
      exact .inr ⟨hr, turn, s1, ha, rfl⟩
    · cases h
  · cases h
    exact .inl ⟨hr, rfl⟩

/-! ### Fetch and step -/

/-- The event taken is enabled, and the others keep their order. -/
theorem takeEvent_some {p : Event → Bool} {l : List Event} {e : Event} {rest : List Event}
    (h : takeEvent p l = some (e, rest)) :
    p e = true ∧ ∃ pre post, l = pre ++ e :: post ∧ rest = pre ++ post ∧ ∀ x ∈ pre, p x = false := by
  induction l generalizing e rest with
  | nil => cases h
  | cons x l ih =>
    simp only [takeEvent] at h
    split_ifs at h with hx
    · cases h
      exact ⟨hx, [], l, rfl, rfl, by simp⟩
    · split at h
      · cases h
      · next y r hy =>
        cases h
        obtain ⟨he, pre, post, rfl, rfl, hpre⟩ := ih hy
        refine ⟨he, x :: pre, post, rfl, rfl, ?_⟩
        intro z hz
        rcases List.mem_cons.mp hz with rfl | hz
        exacts [by simpa using hx, hpre z hz]

/-- Taking the next event changes nothing but the inbox. -/
theorem nextEvent_some {s s1 : State} {e : Event} (h : nextEvent s = some (e, s1)) :
    eventEnabled s e = true ∧ ∃ rest, takeEvent (eventEnabled s) s.inbox = some (e, rest) ∧
      s1 = { s with inbox := rest } := by
  unfold nextEvent at h
  split at h
  · cases h
  · next e' rest hk =>
    cases h
    exact ⟨(takeEvent_some hk).1, rest, hk, rfl⟩

/-- An enabled event at the head of the inbox is the next one. -/
theorem nextEvent_head {s : State} {e : Event} {rest : List Event} (h : s.inbox = e :: rest)
    (he : eventEnabled s e = true) : nextEvent s = some (e, { s with inbox := rest }) := by
  simp [nextEvent, h, takeEvent, he]

/-- What a step that goes on is: no move, a perform, a reset, or the execution of a decoded
transaction. -/
theorem step_cases {s t : State} (h : step s = .next t) :
    (nextEvent s = none ∧ t = s) ∨
    (∃ s1, nextEvent s = some (.perform, s1) ∧ t = perform s1) ∨
    (∃ s1, nextEvent s = some (.reset, s1) ∧ t = resetBlock s1) ∨
    (∃ x s1 i, nextEvent s = some (.txn x, s1) ∧ decode x = .ok i ∧ exec i s1 = .next t) := by
  unfold step at h
  split at h
  · next hn => cases h; exact .inl ⟨hn, rfl⟩
  · next s1 hn => cases h; exact .inr (.inl ⟨s1, hn, rfl⟩)
  · next s1 hn => cases h; exact .inr (.inr (.inl ⟨s1, hn, rfl⟩))
  · next x s1 hn =>
    split at h
    · next i hi => exact .inr (.inr (.inr ⟨x, s1, i, hn, hi, h⟩))
    · cases h

/-- What a step that clears a sticky bit is: the reset, or a write to STATUS with that bit of DATA 1
(60_exceptions.md rule R183). -/
theorem clearsSticky_iff (n : Nat) (s : State) : clearsSticky n s = true ↔
    (∃ s1, nextEvent s = some (.reset, s1)) ∨
    ∃ x s1 d, nextEvent s = some (.txn x, s1) ∧ decode x = .ok (.wrStatus d) ∧ d.getLsbD n = true := by
  unfold clearsSticky
  split
  · next s1 hn => exact iff_of_true rfl (.inl ⟨s1, hn⟩)
  · next x s1 hn =>
    split
    · next d hd => simp [hn, hd]
    · next hd =>
      refine iff_of_false (by simp) ?_
      rintro (⟨_, h⟩ | ⟨y, _, d, h, hy, _⟩)
      · simp [hn] at h
      · simp only [hn, Option.some.injEq, Prod.mk.injEq, Event.txn.injEq] at h
        exact hd d (h.1 ▸ hy)
  · next hr ht =>
    refine iff_of_false (by simp) ?_
    rintro (⟨s1, h⟩ | ⟨x, s1, _, h, _⟩)
    · exact hr s1 h
    · exact ht x s1 h

end Sys2Proof.Machine
end

