-- ==== Sys2Proof/Laws/PerInstr.lean ====
section
/-! SUPPORT. Facts about every transaction, one lemma per constructor: the encoder's descriptor agrees
with the row of spec/opcode_table.json on every bit of the row's mask. -/

namespace Sys2Proof.Laws.EncodeMatchesTable

/-- The `match` column of spec/opcode_table.json. -/
def rowMatch : Instr → Word
  | .wrCmdNop => 0x10000000#32
  | .wrCmdOpen => 0x10000000#32
  | .wrCmdStart => 0x10000000#32
  | .wrCmdStop => 0x10000000#32
  | .wrCmdReserved _ => 0x10000000#32
  | .wrStatus _ => 0x10000004#32
  | .wrIrqEn _ => 0x10000008#32
  | .wrConfig _ => 0x1000000C#32
  | .wrSpb _ => 0x10000010#32
  | .wrPhaseInc _ => 0x10000014#32
  | .wrBlock _ => 0x10000018#32
  | .wrProgress _ => 0x1000001C#32
  | .wrProgSnap _ => 0x10000020#32
  | .wrFifoLevel _ => 0x10000024#32
  | .wrParams _ => 0x10000028#32
  | .wrErrInfo _ => 0x1000002C#32
  | .wrInvalid _ _ => 0x10000000#32
  | .rdCmd => 0x20000000#32
  | .rdStatus => 0x20000004#32
  | .rdIrqEn => 0x20000008#32
  | .rdConfig => 0x2000000C#32
  | .rdSpb => 0x20000010#32
  | .rdPhaseInc => 0x20000014#32
  | .rdBlock => 0x20000018#32
  | .rdProgress => 0x2000001C#32
  | .rdProgSnap => 0x20000020#32
  | .rdFifoLevel => 0x20000024#32
  | .rdParams => 0x20000028#32
  | .rdErrInfo => 0x2000002C#32
  | .rdInvalid _ => 0x20000000#32
  | .push _ _ _ => 0x30000000#32
  | .pushLast _ _ _ => 0x30010000#32
  | .tick => 0x40000000#32

/-- The `mask` column of spec/opcode_table.json. -/
def rowMask : Instr → Word
  | .wrCmdNop => 0xFFFFFFFF#32
  | .wrCmdOpen => 0xFFFFFFFF#32
  | .wrCmdStart => 0xFFFFFFFF#32
  | .wrCmdStop => 0xFFFFFFFF#32
  | .wrCmdReserved _ => 0xFFFFFFFF#32
  | .wrStatus _ => 0xFFFFFFFF#32
  | .wrIrqEn _ => 0xFFFFFFFF#32
  | .wrConfig _ => 0xFFFFFFFF#32
  | .wrSpb _ => 0xFFFFFFFF#32
  | .wrPhaseInc _ => 0xFFFFFFFF#32
  | .wrBlock _ => 0xFFFFFFFF#32
  | .wrProgress _ => 0xFFFFFFFF#32
  | .wrProgSnap _ => 0xFFFFFFFF#32
  | .wrFifoLevel _ => 0xFFFFFFFF#32
  | .wrParams _ => 0xFFFFFFFF#32
  | .wrErrInfo _ => 0xFFFFFFFF#32
  | .wrInvalid _ _ => 0xFFFFFF00#32
  | .rdCmd => 0xFFFFFFFF#32
  | .rdStatus => 0xFFFFFFFF#32
  | .rdIrqEn => 0xFFFFFFFF#32
  | .rdConfig => 0xFFFFFFFF#32
  | .rdSpb => 0xFFFFFFFF#32
  | .rdPhaseInc => 0xFFFFFFFF#32
  | .rdBlock => 0xFFFFFFFF#32
  | .rdProgress => 0xFFFFFFFF#32
  | .rdProgSnap => 0xFFFFFFFF#32
  | .rdFifoLevel => 0xFFFFFFFF#32
  | .rdParams => 0xFFFFFFFF#32
  | .rdErrInfo => 0xFFFFFFFF#32
  | .rdInvalid _ => 0xFFFFFF00#32
  | .push _ _ _ => 0xFFE10000#32
  | .pushLast _ _ _ => 0xFFE10000#32
  | .tick => 0xFFFFFFFF#32

/-- The encoder's descriptor has the row's fixed bits. -/
def Statement (i : Instr) : Prop := (encode i).desc &&& rowMask i = rowMatch i

theorem access_masked (c : BitVec 4) (off : Byte) :
    (c ++ 0#20 ++ off : Word) &&& 0xFFFFFF00#32 = c ++ 0#28 := by
  revert c off
  decide +kernel

theorem push_masked (tail : BitVec 3) (e l : BitVec 1) (len : BitVec 16) :
    (3#4 ++ 0#7 ++ tail ++ e ++ l ++ len : Word) &&& 0xFFE10000#32 = 3#4 ++ 0#11 ++ l ++ 0#16 := by
  have split : (0xFFE10000#32 : Word) = 0xFFE1#16 ++ 0#16 := by decide
  have head : ∀ (tail : BitVec 3) (e l : BitVec 1),
      (3#4 ++ 0#7 ++ tail ++ e ++ l : BitVec 16) &&& 0xFFE1#16 = 3#4 ++ 0#11 ++ l := by decide +kernel
  rw [split]
  show (3#4 ++ 0#7 ++ tail ++ e ++ l : BitVec 16) ++ len &&& 0xFFE1#16 ++ 0#16
    = (3#4 ++ 0#11 ++ l : BitVec 16) ++ 0#16
  rw [BitVec.and_append, head, BitVec.and_zero]

theorem wrCmdNop : Statement .wrCmdNop := by
  unfold Statement
  decide

theorem wrCmdOpen : Statement .wrCmdOpen := by
  unfold Statement
  decide

theorem wrCmdStart : Statement .wrCmdStart := by
  unfold Statement
  decide

theorem wrCmdStop : Statement .wrCmdStop := by
  unfold Statement
  decide

theorem wrCmdReserved (d : Word) : Statement (.wrCmdReserved d) := by
  simp only [Statement, encode, encodeWr, rowMask, rowMatch]
  decide

theorem wrStatus (d : Word) : Statement (.wrStatus d) := by
  simp only [Statement, encode, encodeWr, rowMask, rowMatch]
  decide

theorem wrIrqEn (d : Word) : Statement (.wrIrqEn d) := by
  simp only [Statement, encode, encodeWr, rowMask, rowMatch]
  decide

theorem wrConfig (d : Word) : Statement (.wrConfig d) := by
  simp only [Statement, encode, encodeWr, rowMask, rowMatch]
  decide

theorem wrSpb (d : Word) : Statement (.wrSpb d) := by
  simp only [Statement, encode, encodeWr, rowMask, rowMatch]
  decide

theorem wrPhaseInc (d : Word) : Statement (.wrPhaseInc d) := by
  simp only [Statement, encode, encodeWr, rowMask, rowMatch]
  decide

theorem wrBlock (d : Word) : Statement (.wrBlock d) := by
  simp only [Statement, encode, encodeWr, rowMask, rowMatch]
  decide

theorem wrProgress (d : Word) : Statement (.wrProgress d) := by
  simp only [Statement, encode, encodeWr, rowMask, rowMatch]
  decide

theorem wrProgSnap (d : Word) : Statement (.wrProgSnap d) := by
  simp only [Statement, encode, encodeWr, rowMask, rowMatch]
  decide

theorem wrFifoLevel (d : Word) : Statement (.wrFifoLevel d) := by
  simp only [Statement, encode, encodeWr, rowMask, rowMatch]
  decide

theorem wrParams (d : Word) : Statement (.wrParams d) := by
  simp only [Statement, encode, encodeWr, rowMask, rowMatch]
  decide

theorem wrErrInfo (d : Word) : Statement (.wrErrInfo d) := by
  simp only [Statement, encode, encodeWr, rowMask, rowMatch]
  decide

theorem wrInvalid (off : Byte) (d : Word) : Statement (.wrInvalid off d) := (access_masked _ off).trans (by
  simp only [rowMatch]
  decide)

theorem rdCmd : Statement .rdCmd := by
  unfold Statement
  decide

theorem rdStatus : Statement .rdStatus := by
  unfold Statement
  decide

theorem rdIrqEn : Statement .rdIrqEn := by
  unfold Statement
  decide

theorem rdConfig : Statement .rdConfig := by
  unfold Statement
  decide

theorem rdSpb : Statement .rdSpb := by
  unfold Statement
  decide

theorem rdPhaseInc : Statement .rdPhaseInc := by
  unfold Statement
  decide

theorem rdBlock : Statement .rdBlock := by
  unfold Statement
  decide

theorem rdProgress : Statement .rdProgress := by
  unfold Statement
  decide

theorem rdProgSnap : Statement .rdProgSnap := by
  unfold Statement
  decide

theorem rdFifoLevel : Statement .rdFifoLevel := by
  unfold Statement
  decide

theorem rdParams : Statement .rdParams := by
  unfold Statement
  decide

theorem rdErrInfo : Statement .rdErrInfo := by
  unfold Statement
  decide

theorem rdInvalid (off : Byte) : Statement (.rdInvalid off) := (access_masked _ off).trans (by
  simp only [rowMatch]
  decide)

theorem push (tail : BitVec 3) (err : Bool) (data : List Byte) : Statement (.push tail err data) := (push_masked tail _ _ _).trans (by
  simp only [rowMatch]
  decide)

theorem pushLast (tail : BitVec 3) (err : Bool) (data : List Byte) : Statement (.pushLast tail err data) := (push_masked tail _ _ _).trans (by
  simp only [rowMatch]
  decide)

theorem tick : Statement .tick := by
  unfold Statement
  decide

end Sys2Proof.Laws.EncodeMatchesTable
end

