-- ==== Sys2Proof/Tests/Slice0.lean ====
section
/-! SUPPORT. The tests. Every expected value comes from the spec: 95_test_vectors.md, or the example of
the rule named beside it. A theorem `test_witness_X` meets the hypotheses of the statement
`Obligations.X` on concrete data. -/

namespace Sys2Proof.Tests

open Sys2Proof Sys2Proof.Machine

/-! ### Small states and what is seen of a step -/

/-- The state a step answers. -/
def after (o : Host.Outcome State Fault Refusal) : Option State :=
  match o with
  | .next s => some s
  | .fault _ => none
  | .refused _ => none

/-- The word last put on a port. -/
def shown (o : Host.Outcome State Fault Refusal) : Option Word :=
  (after o).bind fun s => s.trace.getLast?.map obsWord

/-- STATUS and ERR_INFO after a step. -/
def flags (o : Host.Outcome State Fault Refusal) : Option (Word × Word) :=
  (after o).map fun s => (statusWord s, errInfoWord s)

/-- An open channel holding bytes from slot `rd` on. -/
def chan (rd : Nat) (bytes : List Byte) (eos : Bool) (tail : BitVec 3) : Fifo :=
  { mem := Memory.writeBytes [] rd bytes, rd := rd, count := bytes.length, isOpen := true, eos := eos
    tail := tail }

/-- Idle, with a channel, `spb = 4` and `phase_inc = 0x0400_0000` (program P1). -/
def ready (f : Fifo) : State :=
  { State.reset with fifo := f, reg := { Reg.initial with spb := 4#32, phaseInc := 0x04000000#32 } }

/-- Running, with the Cursors and the local buffer given. -/
def running (f : Fifo) (bs bc : Cursor) (lbuf : Memory) : State :=
  { ready f with syn := { Syn.initial with state := .running, bs := bs, bc := bc, lbuf := lbuf } }

/-- Running, the first tick after START still to come. -/
def started (f : Fifo) : State := running f { index := 4#32, total := 4#32 } Cursor.zero []

/-- The same state under the WAIT policy. -/
def waiting (s : State) : State := { s with reg := { s.reg with starvePolicy := true } }

/-- The same state with a push pending. -/
def pend (r : PushReq) (s : State) : State := { s with prd := { pending := some r } }

/-- The same state with events presented. -/
def present (es : List Event) (s : State) : State := { s with inbox := es }

/-- A channel of eight bytes, full. -/
def fullChan : Fifo := chan 0 [1#8, 2#8, 3#8, 4#8, 5#8, 6#8, 7#8, 8#8] false 0#3

/-- `push [0x09, 0x0A]` (program P2). -/
def resend : PushReq := { last := false, err := false, tail := 0#3, data := [9#8, 10#8] }

/-- The TICK descriptor. -/
def tickTxn : Txn := { desc := 0x40000000#32, operand := .none }

/-! ### Ill-formed terms -/

theorem test_wf_reserved_command : (Instr.wrCmdReserved 3#32).wf = false ∧ (Instr.wrCmdReserved 4#32).wf = true := by decide
theorem test_wf_write_offset : (Instr.wrInvalid 0x2C#8 0#32).wf = false ∧ (Instr.wrInvalid 0x2D#8 0#32).wf = true := by decide
theorem test_wf_read_offset : (Instr.rdInvalid 0x00#8).wf = false ∧ (Instr.rdInvalid 0x30#8).wf = true := by decide
theorem test_wf_push_length (data : List Byte) (h : data.length = 65536) :
    (Instr.push 0#3 false data).wf = false ∧ (Instr.pushLast 0#3 false data).wf = false := by
  simp [Instr.wf, pushLengthOk, h]

/-! ### Decoding: words written out from 30_encoding.md rule R79 -/

theorem test_decode_commands :
    decode { desc := 0x10000000#32, operand := .word 0x00000000#32 } = .ok .wrCmdNop ∧
    decode { desc := 0x10000000#32, operand := .word 0x00000001#32 } = .ok .wrCmdOpen ∧
    decode { desc := 0x10000000#32, operand := .word 0x00000002#32 } = .ok .wrCmdStart ∧
    decode { desc := 0x10000000#32, operand := .word 0x00000003#32 } = .ok .wrCmdStop ∧
    decode { desc := 0x10000000#32, operand := .word 0x00000004#32 } = .ok (.wrCmdReserved 4#32) ∧
    decode { desc := 0x10000000#32, operand := .word 0x80000001#32 } = .ok (.wrCmdReserved 0x80000001#32) :=
  ⟨rfl, rfl, rfl, rfl, rfl, rfl⟩

theorem test_decode_writes :
    decode { desc := 0x10000004#32, operand := .word 5#32 } = .ok (.wrStatus 5#32) ∧
    decode { desc := 0x10000008#32, operand := .word 5#32 } = .ok (.wrIrqEn 5#32) ∧
    decode { desc := 0x1000000C#32, operand := .word 5#32 } = .ok (.wrConfig 5#32) ∧
    decode { desc := 0x10000010#32, operand := .word 5#32 } = .ok (.wrSpb 5#32) ∧
    decode { desc := 0x10000014#32, operand := .word 5#32 } = .ok (.wrPhaseInc 5#32) ∧
    decode { desc := 0x10000018#32, operand := .word 5#32 } = .ok (.wrBlock 5#32) ∧
    decode { desc := 0x1000001C#32, operand := .word 5#32 } = .ok (.wrProgress 5#32) ∧
    decode { desc := 0x10000020#32, operand := .word 5#32 } = .ok (.wrProgSnap 5#32) ∧
    decode { desc := 0x10000024#32, operand := .word 5#32 } = .ok (.wrFifoLevel 5#32) ∧
    decode { desc := 0x10000028#32, operand := .word 5#32 } = .ok (.wrParams 5#32) ∧
    decode { desc := 0x1000002C#32, operand := .word 5#32 } = .ok (.wrErrInfo 5#32) ∧
    decode { desc := 0x10000030#32, operand := .word 5#32 } = .ok (.wrInvalid 0x30#8 5#32) :=
  ⟨rfl, rfl, rfl, rfl, rfl, rfl, rfl, rfl, rfl, rfl, rfl, rfl⟩

theorem test_decode_reads :
    decode { desc := 0x20000000#32, operand := .none } = .ok .rdCmd ∧
    decode { desc := 0x20000004#32, operand := .none } = .ok .rdStatus ∧
    decode { desc := 0x20000008#32, operand := .none } = .ok .rdIrqEn ∧
    decode { desc := 0x2000000C#32, operand := .none } = .ok .rdConfig ∧
    decode { desc := 0x20000010#32, operand := .none } = .ok .rdSpb ∧
    decode { desc := 0x20000014#32, operand := .none } = .ok .rdPhaseInc ∧
    decode { desc := 0x20000018#32, operand := .none } = .ok .rdBlock ∧
    decode { desc := 0x2000001C#32, operand := .none } = .ok .rdProgress ∧
    decode { desc := 0x20000020#32, operand := .none } = .ok .rdProgSnap ∧
    decode { desc := 0x20000024#32, operand := .none } = .ok .rdFifoLevel ∧
    decode { desc := 0x20000028#32, operand := .none } = .ok .rdParams ∧
    decode { desc := 0x2000002C#32, operand := .none } = .ok .rdErrInfo ∧
    decode { desc := 0x200000FF#32, operand := .none } = .ok (.rdInvalid 0xFF#8) :=
  ⟨rfl, rfl, rfl, rfl, rfl, rfl, rfl, rfl, rfl, rfl, rfl, rfl, rfl⟩

/-- The descriptors of section 2.4 and program P3. -/
theorem test_decode_pushes :
    decode { desc := 0x30000002#32, operand := .bytes [0x09#8, 0x0A#8] } = .ok (.push 0#3 false [0x09#8, 0x0A#8]) ∧
    decode { desc := 0x300C0001#32, operand := .bytes [0x80#8] } = .ok (.push 3#3 false [0x80#8]) ∧
    decode { desc := 0x30020001#32, operand := .bytes [0x01#8] } = .ok (.push 0#3 true [0x01#8]) ∧
    decode { desc := 0x30010000#32, operand := .bytes [] } = .ok (.pushLast 0#3 false []) ∧
    decode { desc := 0x300D0001#32, operand := .bytes [0xA0#8] } = .ok (.pushLast 3#3 false [0xA0#8]) ∧
    decode { desc := 0x30030001#32, operand := .bytes [0xC0#8] } = .ok (.pushLast 0#3 true [0xC0#8]) :=
  ⟨rfl, rfl, rfl, rfl, rfl, rfl⟩

theorem test_decode_tick : decode tickTxn = .ok .tick := rfl

/-- 30_encoding.md rules R70, R78. -/
theorem test_decode_rejects :
    decode { desc := 0x00000000#32, operand := .none } = .error .reservedClass ∧
    decode { desc := 0xF0000000#32, operand := .none } = .error .reservedClass ∧
    decode { desc := 0x10000100#32, operand := .word 0#32 } = .error .mbzNonzero ∧
    decode { desc := 0x28000000#32, operand := .none } = .error .mbzNonzero ∧
    decode { desc := 0x30200000#32, operand := .bytes [] } = .error .mbzNonzero ∧
    decode { desc := 0x40000001#32, operand := .none } = .error .mbzNonzero ∧
    decode { desc := 0x30000002#32, operand := .bytes [0x01#8] } = .error .lengthMismatch ∧
    decode { desc := 0x10000000#32, operand := .none } = .error .operandShape :=
  ⟨rfl, rfl, rfl, rfl, rfl, rfl, rfl, rfl⟩

/-- The host's numbering: DATA above the descriptor, and a PUSH's bytes above it in stream order. -/
theorem test_decode_table_words :
    decodeTableWord 64 0x0000000210000000 = some .wrCmdStart ∧
    decodeTableWord 32 0x10000010 = some (.wrSpb 0#32) ∧
    decodeTableWord 48 0x0A0930000002 = some (.push 0#3 false [0x09#8, 0x0A#8]) ∧
    decodeTableWord 32 0x30010001 = some (.pushLast 0#3 false [0x00#8]) ∧
    decodeTableWord 32 0x00000000 = none := by decide

/-- 95_test_vectors.md section 2.2: the first transaction after reset. -/
theorem test_first_step : shown (step (State.reset.withFetchWord 32 0x20000028)) = some 0x20080403#32 := by
  decide

/-! ### Commands, 95_test_vectors.md section 2.3 -/

theorem test_nop : after (exec .wrCmdNop State.reset) = some State.reset := by decide
theorem test_open : flags (exec .wrCmdOpen State.reset) = some (0x00000810#32, 0x00000000#32) := by decide
theorem test_open_running : flags (exec .wrCmdOpen (started Fifo.initial)) = some (0x00000211#32, 0x00000005#32) := by
  decide
theorem test_start_closed : flags (exec .wrCmdStart State.reset) = some (0x00000210#32, 0x00000003#32) := by
  decide
theorem test_start : (after (exec .wrCmdStart (ready (chan 0 [] false 0#3)))).map
    (fun s => (statusWord s, s.syn.bs, s.syn.bc)) =
    some (0x00000811#32, { index := 4#32, total := 4#32 }, { index := 0#32, total := 0#32 }) := by decide
theorem test_stop_running : (after (exec .wrCmdStop (started (chan 0 [1#8, 2#8, 3#8] false 0#3)))).map
    (fun s => (statusWord s, fifoLevelWord s)) = some (0x00000010#32, 0#32) := by decide
theorem test_stop_held : shown (exec .wrCmdStop (pend resend (ready fullChan))) = some 0x40000000#32 := by
  decide
theorem test_reserved_command : flags (exec (.wrCmdReserved 0x12#32) State.reset) =
    some (0x00000210#32, 0x00000001#32) := by decide

/-! ### Register writes, 95_test_vectors.md section 2.3 -/

theorem test_ack : flags (exec (.wrStatus 0x706#32) { State.reset with reg := { Reg.initial with
      done := true, prog := true, rdErr := true, cmdErr := true, accErr := true, errCode := 5#4 } }) =
    some (0x00000010#32, 0x00000005#32) := by decide
theorem test_irq_en : (after (exec (.wrIrqEn 0xFFFFFFFF#32) State.reset)).map (fun s => irqEnWord s.reg.irqEn) =
    some 0x00000706#32 := by decide
theorem test_config : (after (exec (.wrConfig 0xFFFFFFFF#32) State.reset)).map configWord = some 1#32 := by
  decide
theorem test_config_running : flags (exec (.wrConfig 1#32) (started fullChan)) =
    some (0x00000C21#32, 0x00000C0B#32) := by decide
theorem test_spb : (after (exec (.wrSpb 7#32) State.reset)).map (fun s => s.reg.spb) = some 7#32 := by decide
theorem test_spb_running : flags (exec (.wrSpb 3#32) (started fullChan)) =
    some (0x00000C21#32, 0x0000100B#32) := by decide
theorem test_phase_inc_running : flags (exec (.wrPhaseInc 1#32) (started fullChan)) =
    some (0x00000C21#32, 0x0000140B#32) := by decide
theorem test_block_running : flags (exec (.wrBlock 1#32) (started fullChan)) =
    some (0x00000C21#32, 0x0000180B#32) := by decide
theorem test_read_only :
    flags (exec (.wrProgress 0#32) State.reset) = some (0x00000410#32, 0x00001C0A#32) ∧
    flags (exec (.wrProgSnap 0#32) State.reset) = some (0x00000410#32, 0x0000200A#32) ∧
    flags (exec (.wrFifoLevel 0#32) State.reset) = some (0x00000410#32, 0x0000240A#32) ∧
    flags (exec (.wrParams 0#32) State.reset) = some (0x00000410#32, 0x0000280A#32) ∧
    flags (exec (.wrErrInfo 0#32) State.reset) = some (0x00000410#32, 0x00002C0A#32) := by decide
theorem test_write_misaligned : flags (exec (.wrInvalid 0x31#8 5#32) State.reset) =
    some (0x00000410#32, 0x00003108#32) := by decide
theorem test_write_unmapped : flags (exec (.wrInvalid 0x40#8 5#32) State.reset) =
    some (0x00000410#32, 0x00004009#32) := by decide

/-! ### Register reads, 95_test_vectors.md section 2.2 -/

theorem test_reads_after_reset :
    shown (exec .rdCmd State.reset) = some 0#32 ∧ shown (exec .rdStatus State.reset) = some 0x00000010#32 ∧
    shown (exec .rdIrqEn State.reset) = some 0#32 ∧ shown (exec .rdConfig State.reset) = some 0#32 ∧
    shown (exec .rdSpb State.reset) = some 0#32 ∧ shown (exec .rdPhaseInc State.reset) = some 0#32 ∧
    shown (exec .rdBlock State.reset) = some 0#32 ∧ shown (exec .rdProgress State.reset) = some 0#32 ∧
    shown (exec .rdProgSnap State.reset) = some 0#32 ∧ shown (exec .rdFifoLevel State.reset) = some 0#32 ∧
    shown (exec .rdParams State.reset) = some 0x20080403#32 ∧ shown (exec .rdErrInfo State.reset) = some 0#32 := by
  decide
/-- Program P2 row 7 and row 5, and the registers written in program P1. -/
theorem test_reads_of_a_full_channel :
    shown (exec .rdStatus (pend resend (ready fullChan))) = some 0x00000860#32 ∧
    shown (exec .rdFifoLevel (ready fullChan)) = some 0x00000008#32 ∧
    shown (exec .rdSpb (ready fullChan)) = some 0x00000004#32 ∧
    shown (exec .rdPhaseInc (ready fullChan)) = some 0x04000000#32 := by decide
theorem test_read_invalid :
    shown (exec (.rdInvalid 0x05#8) State.reset) = some 0#32 ∧
    flags (exec (.rdInvalid 0x05#8) State.reset) = some (0x00000410#32, 0x00000508#32) ∧
    flags (exec (.rdInvalid 0xFF#8) State.reset) = some (0x00000410#32, 0x0000FF08#32) ∧
    flags (exec (.rdInvalid 0x30#8) State.reset) = some (0x00000410#32, 0x00003009#32) := by decide

/-! ### The producer port, 95_test_vectors.md section 2.4 -/

theorem test_push_closed : shown (exec (.push 0#3 false [0x55#8]) State.reset) = some 0x40000000#32 := by decide
theorem test_push_last_pends : (after (exec (.pushLast 3#3 false [0xA0#8]) (ready (chan 0 [] false 0#3)))).map
    (fun s => s.prd.pending) = some (some { last := true, err := false, tail := 3#3, data := [0xA0#8] }) := by
  decide
/-- Ten bytes into an empty channel of eight. -/
theorem test_perform_fills :
    let s := perform (pend { resend with data := [1#8, 2#8, 3#8, 4#8, 5#8, 6#8, 7#8, 8#8, 9#8, 10#8] } (ready (chan 0 [] false 0#3)))
    (s.trace.map obsWord, statusWord s, stored s) =
      ([0x00000008#32], 0x00000820#32, [1#8, 2#8, 3#8, 4#8, 5#8, 6#8, 7#8, 8#8]) := by decide
/-- The short write at the wrap: `rd = 6`, empty. -/
theorem test_perform_short_write :
    (perform (pend { resend with data := [0x81#8, 0x42#8, 0x24#8, 0x18#8, 0xFF#8] } (ready (chan 6 [] false 0#3)))).trace.map
      obsWord = [0x00000002#32] := by decide
/-- `fail` on an empty open channel, and a push after the stream's end. -/
theorem test_perform_fail_and_proto :
    statusWord (perform (pend { last := true, err := true, tail := 0#3, data := [] } (ready (chan 0 [] false 0#3)))) =
      0x00000990#32 ∧
    (perform (pend { resend with data := [0x01#8] } (ready (chan 0 [] true 0#3)))).trace.map obsWord = [0x80000000#32] := by
  decide

/-! ### The tick, programs P1, P4 and 95_test_vectors.md section 2.5 -/

theorem test_tick_idle : shown (exec .tick State.reset) = some 0x00000000#32 := by decide
/-- Program P1, tick 1: the refill takes one byte and pads 5 bits. -/
theorem test_tick_first :
    (after (exec .tick (started (chan 0 [0xA0#8] true 3#3)))).map (fun s => (s.trace.map obsWord, s.syn.bs, s.syn.bc)) =
      some ([0x0001007F#32], { index := 1#32, total := 4#32 }, { index := 0#32, total := 3#32 }) := by decide
/-- Program P1, tick 13 (`0x0000_0892` with no other sticky bit). -/
theorem test_tick_completes :
    flags (exec .tick (running (chan 1 [] true 3#3) { index := 4#32, total := 4#32 } { index := 2#32, total := 3#32 } [(0, 0xA0#8)])) =
      some (0x00000892#32, 0x00000000#32) := by decide
/-- Program P4, tick 1. -/
theorem test_tick_starves :
    flags (exec .tick (waiting (started (chan 0 [] false 0#3)))) = some (0x00000819#32, 0x00000000#32) := by decide
/-- Program P1, tick 9: the carrier at phase index 32. -/
theorem test_carrier : sampleWord (envelopeSample true 0x20000000#32) = 0x00015A5A#32 := by decide
/-- 95_test_vectors.md section 2.1. -/
theorem test_cursor :
    ({ index := 2#32, total := 3#32 } : Cursor).isLast = true ∧ ({ index := 2#32, total := 3#32 } : Cursor).isDone = false ∧
    ({ index := 0xFFFFFFFF#32, total := 5#32 } : Cursor).bump = { index := 0#32, total := 5#32 } := by decide
/-- A reserved descriptor is refused by name (30_encoding.md rule R78). -/
theorem test_step_refuses : step (present [.txn { desc := 0x50000000#32, operand := .none }] State.reset) =
    .refused (.noTransaction .reservedClass) := rfl
/-- 95_test_vectors.md section 2.8. -/
theorem test_reset_step :
    flags (step (present [.reset] (pend resend (started fullChan)))) = some (0x00000010#32, 0x00000000#32) ∧
    shown (step (present [.reset] (pend resend (started fullChan)))) = some 0x40000000#32 := by decide

/-! ### Witnesses -/

theorem test_witness_DecodeOfEncode :
    (Instr.pushLast 3#3 true [0xA0#8]).wf = true ∧ (Instr.push 7#3 false []).wf = true ∧
    (Instr.wrCmdReserved 4#32).wf = true ∧ (Instr.wrInvalid 0x30#8 0#32).wf = true ∧
    (Instr.rdInvalid 0xFF#8).wf = true ∧ Instr.tick.wf = true := by decide

theorem test_witness_DecodedIsWellFormedAndReencodes :
    decode { desc := 0x300D0001#32, operand := .bytes [0xA0#8] } = .ok (.pushLast 3#3 false [0xA0#8]) := rfl

/-- Each clause: the reserved classes at both ends, each format's MBZ field, and a length one off. -/
theorem test_witness_ReservedDescriptorsAreRefused :
    (∃ s : State, s.inbox = .txn { desc := 0x0FFFFFFF#32, operand := .none } :: []) ∧
    (0x0FFFFFFF#32).toNat / 2 ^ 28 = 0 ∧ 5 ≤ (0x50000000#32).toNat / 2 ^ 28 ∧
    ((0x10000100#32).toNat / 2 ^ 28 = 1 ∧ (0x10000100#32).toNat / 2 ^ 8 % 2 ^ 20 ≠ 0) ∧
    ((0x28000000#32).toNat / 2 ^ 28 = 2 ∧ (0x28000000#32).toNat / 2 ^ 8 % 2 ^ 20 ≠ 0) ∧
    ((0x30200000#32).toNat / 2 ^ 28 = 3 ∧ (0x30200000#32).toNat / 2 ^ 21 % 2 ^ 7 ≠ 0) ∧
    ((0x40000001#32).toNat / 2 ^ 28 = 4 ∧ (0x40000001#32).toNat % 2 ^ 28 ≠ 0) ∧
    ((0x30000001#32).toNat / 2 ^ 28 = 3 ∧ ([] : List Byte).length ≠ (0x30000001#32).toNat % 2 ^ 16) :=
  ⟨⟨present [.txn { desc := 0x0FFFFFFF#32, operand := .none }] State.reset, rfl⟩, by decide⟩

theorem test_witness_CommandWordDecodeAndReserved :
    4 ≤ (4#32).toNat ∧ 4 ≤ (8#32).toNat ∧ 4 ≤ (0xFFFFFFFF#32).toNat := by decide

/-- Misaligned below and above 0x30, and the first and last aligned unmapped offsets. -/
theorem test_witness_InvalidOffsetsRecordError :
    (0x01#8).toNat % 4 ≠ 0 ∧ (0x2F#8).toNat % 4 ≠ 0 ∧ ((0xFF#8).toNat % 4 ≠ 0 ∧ 0x30 ≤ (0xFF#8).toNat) ∧
    (0x30#8).toNat % 4 = 0 ∧ 0x30 ≤ (0x30#8).toNat ∧ (0xFC#8).toNat % 4 = 0 ∧ 0x30 ≤ (0xFC#8).toNat := by decide

theorem test_witness_FifoLevelReadsCount :
    (ready fullChan).params.Legal ∧ (ready fullChan).fifo.count ≤ 2 ^ (ready fullChan).params.fifoLog2 := by decide

/-- The legal parameters at both ends; `State.reset` has those of the last clause. -/
theorem test_witness_ParamsReadFields :
    (State.resetWith { fifoLog2 := 1, lbufBytes := 1 }).params.Legal ∧
    (State.resetWith { fifoLog2 := 16, lbufBytes := 255 }).params.Legal ∧
    State.reset.params.Legal ∧ State.reset.params = { fifoLog2 := 3, lbufBytes := 4 } := by decide

/-- Closed and open. -/
theorem test_witness_PushIssueEntersPort :
    [0x55#8].length < 65536 ∧ State.reset.prd.pending = none ∧ State.reset.fifo.isOpen = false ∧
    (ready fullChan).prd.pending = none ∧ (ready fullChan).fifo.isOpen = true := by decide

theorem test_witness_SecondPushWaits :
    let t : Txn := { desc := 0x30000001#32, operand := .bytes [0x01#8] }
    [0x01#8].length < 65536 ∧ (pend resend (ready fullChan)).prd.pending = some resend ∧
    decode t = .ok (.push 0#3 false [0x01#8]) ∧ decode tickTxn = .ok .tick ∧
    (present [.txn t] (pend resend (ready fullChan))).inbox = [.txn t] ∧
    (present [.txn t, .txn tickTxn] (pend resend (ready fullChan))).inbox = [.txn t, .txn tickTxn] :=
  ⟨by decide, rfl, rfl, rfl, rfl, rfl⟩

/-- PROTO, no bytes (LAST or not), accepted whole, accepted in part. -/
theorem test_witness_PerformAnswersPush :
    held (pend { resend with tail := 1#3 } (present [.perform] (ready fullChan))) = false ∧
    held (pend { resend with data := [] } (present [.perform] (ready fullChan))) = false ∧
    held (pend { resend with last := true, data := [] } (present [.perform] (ready fullChan))) = false ∧
    held (pend { resend with last := true } (present [.perform] (ready (chan 0 [1#8] false 0#3)))) = false ∧
    held (pend resend (present [.perform] (ready (chan 7 [] false 0#3)))) = false ∧
    (pend resend (present [.perform] (ready (chan 7 [] false 0#3)))).inbox = [.perform] ∧
    (pend resend (present [.perform] (ready (chan 7 [] false 0#3)))).prd.pending = some resend := by decide

theorem test_witness_HeldPushHasNoPerform :
    held (present [.perform] (pend resend (ready fullChan))) = true ∧
    held (present [.perform, .txn tickTxn] (pend resend (started fullChan))) = true ∧
    decode tickTxn = .ok .tick := ⟨by decide, by decide, rfl⟩

set_option synthInstance.maxSize 3000 in
/-- The first tick after START, and the tick at the last loaded bit. -/
theorem test_witness_RefillLiftsHold :
    let s := pend resend (started fullChan)
    let u := pend resend (running fullChan { index := 4#32, total := 4#32 } { index := 7#32, total := 8#32 } [(0, 9#8)])
    (Inv s ∧ held s = true ∧ s.syn.state = .running ∧ s.syn.bs.total ≤ s.syn.bs.index ∧
      s.syn.bc.total.toNat ≤ s.syn.bc.index.toNat + 1) ∧
    (Inv u ∧ held u = true ∧ u.syn.state = .running ∧ u.syn.bs.total ≤ u.syn.bs.index ∧
      u.syn.bc.total.toNat ≤ u.syn.bc.index.toNat + 1) := by decide

set_option synthInstance.maxSize 3000 in
theorem test_witness_PerformAppendsToStream :
    let s := pend resend (ready (chan 6 [1#8] false 0#3))
    Inv s ∧ s.prd.pending = some resend ∧ held s = false ∧ proto resend s = false ∧
    Inv (pend resend (ready (chan 6 [1#8] true 0#3))) ∧ proto resend (pend resend (ready (chan 6 [1#8] true 0#3))) = true := by
  decide

/-- A step that issues a push, and one that does not. -/
theorem test_witness_EveryPushAnsweredOnce :
    (∃ t, step (present [.txn { desc := 0x30000001#32, operand := .bytes [0x55#8] }] State.reset) = .next t) ∧
    isPushTxn { desc := 0x30000001#32, operand := .bytes [0x55#8] } = true ∧
    ∃ t, step (present [.txn tickTxn] State.reset) = .next t := ⟨⟨_, rfl⟩, rfl, ⟨_, rfl⟩⟩

theorem test_witness_IdleTickEmitsSilence :
    State.reset.syn.state ≠ .running ∧ ({ Syn.initial with state := .done } : Syn).state ≠ .running := by decide

set_option synthInstance.maxSize 3000 in
/-- The five branches, each at the edge of its condition: the last sample of a bit, the last loaded bit,
one stored byte, an empty channel under WAIT, and an empty channel under WAIT with EOS. -/
theorem test_witness_RunningTickFollowsRule :
    Inv (running (chan 0 [] false 0#3) { index := 3#32, total := 4#32 } { index := 0#32, total := 8#32 } []) ∧
    Inv (running (chan 0 [] false 0#3) { index := 4#32, total := 4#32 } { index := 6#32, total := 8#32 } []) ∧
    Inv (running (chan 7 [0xA0#8] true 3#3) { index := 4#32, total := 4#32 } { index := 7#32, total := 8#32 } []) ∧
    Inv (waiting (running (chan 0 [] false 0#3) { index := 4#32, total := 4#32 } { index := 7#32, total := 8#32 } [])) ∧
    Inv (waiting (running (chan 0 [] true 0#3) { index := 4#32, total := 4#32 } { index := 7#32, total := 8#32 } [])) ∧
    (started fullChan).syn.state = .running := by decide

set_option synthInstance.maxSize 3000 in
/-- A short read at the wrap: `rd = 6` with five bytes stored. -/
theorem test_witness_RefillMovesOldestBytes :
    let s := started { chan 6 [0x81#8, 0x42#8] false 0#3 with
      mem := [(0, 0x24#8), (1, 0x18#8), (2, 0xFF#8), (6, 0x81#8), (7, 0x42#8)], count := 5 }
    Inv s ∧ refillCount s = 2 := by decide

/-- One tick that goes on, and one that completes. -/
theorem test_witness_CarrierFollowsPhase :
    (started fullChan).syn.state = .running ∧
    (after (exec .tick (started fullChan))).map (fun t => t.syn.state) = some .running ∧
    (started (chan 0 [] false 0#3)).syn.state = .running ∧
    (after (exec .tick (started (chan 0 [] false 0#3)))).map (fun t => t.syn.state) = some .done := by decide

/-- BLOCK 0; `blk` short of the block; `blk` at its last tick; and a tick that completes and also ends a
block, which sets DONE and PROG (95_test_vectors.md section 2.7, BLOCK 5). -/
theorem test_witness_ProgressEventsFollowBlock :
    let s := started fullChan
    let at3 (n : Word) (u : State) : State :=
      { u with syn := { u.syn with blk := n }, reg := { u.reg with block := 3#32 } }
    s.syn.state = .running ∧
    (s.reg.block = 0#32 ∧ (after (exec .tick s)).map (fun t => t.syn.state) = some .running) ∧
    ((at3 1#32 s).reg.block ≠ 0#32 ∧ (at3 1#32 s).syn.blk + 1#32 ≠ (at3 1#32 s).reg.block ∧
      (after (exec .tick (at3 1#32 s))).isSome = true) ∧
    ((at3 2#32 s).syn.blk + 1#32 = (at3 2#32 s).reg.block ∧ (after (exec .tick (at3 2#32 s))).isSome = true) ∧
    (after (exec .tick (at3 2#32 (started (chan 0 [] false 0#3))))).map
      (fun t => (t.syn.state, t.reg.done, t.reg.prog)) = some (.done, true, true) := by decide

set_option synthInstance.maxSize 3000 in
theorem test_witness_TickAlwaysHasStep : Inv State.reset ∧ Inv (started fullChan) := by decide

/-- The three transitions a transaction makes. -/
theorem test_witness_SynStateTransitions :
    (after (exec .wrCmdStart (ready fullChan))).map (fun t => t.syn.state) = some .running ∧
    (after (exec .tick (started (chan 0 [] false 0#3)))).map (fun t => t.syn.state) = some .done ∧
    (after (exec .wrCmdStop (started fullChan))).map (fun t => t.syn.state) = some .idle := by decide

set_option synthInstance.maxSize 3000 in
/-- The stream of program P1, and a stream that wraps in the ring with all 8 bits of its last byte. -/
theorem test_witness_WholeStreamIsTransmitted :
    let s := ready (chan 0 [0xA0#8] true 3#3)
    let u := ready { chan 7 [1#8] true 0#3 with mem := [(0, 2#8), (7, 1#8)], count := 2 }
    (Inv s ∧ s.syn.state ≠ .running ∧ s.fifo.isOpen = true ∧ s.reg.spb ≠ 0#32 ∧ s.fifo.eos = true ∧
      0 < s.fifo.count ∧ (after (exec .wrCmdStart s)).isSome = true) ∧
    (Inv u ∧ u.syn.state ≠ .running ∧ u.fifo.isOpen = true ∧ u.reg.spb ≠ 0#32 ∧ u.fifo.eos = true ∧
      0 < u.fifo.count ∧ (after (exec .wrCmdStart u)).isSome = true) := by decide

/-- An accepted START, a tick, a refused START, and another transaction. -/
theorem test_witness_ProgressCountsBytesTaken :
    (after (exec .wrCmdStart (ready fullChan))).map (fun t => t.syn.state) = some .running ∧
    (after (exec .tick (started fullChan))).isSome = true ∧
    (after (exec .wrCmdStart (started fullChan))).isSome = true ∧
    (after (exec .rdProgress (started fullChan))).isSome = true := by decide

theorem test_witness_OneRecordPerTick :
    (after (exec .tick (started fullChan))).isSome = true ∧ (after (exec .rdStatus State.reset)).isSome = true := by
  decide

set_option synthInstance.maxSize 3000 in
/-- An empty channel and a full one. -/
theorem test_witness_ChannelQuantities : Inv (ready (chan 7 [] false 0#3)) ∧ Inv (ready fullChan) := by decide

/-- No error, a refused command, a refused access. -/
theorem test_witness_ErrorsAreAllOrNothing :
    (after (exec .wrCmdNop State.reset)).isSome = true ∧ (after (exec .wrCmdStart State.reset)).isSome = true ∧
    (after (exec (.rdInvalid 0x30#8) State.reset)).isSome = true := by decide

/-- Each sticky bit, set before and clear after a write of its bit; all five after a reset step; and none
lost to a perform. -/
theorem test_witness_StickyBitsFallOnlyByAckOrReset :
    let s : State := { State.reset with reg := { Reg.initial with
      done := true, prog := true, rdErr := true, cmdErr := true, accErr := true } }
    let ack (d : Word) : Option State := after (step (present [.txn { desc := 0x10000004#32, operand := .word d }] s))
    (ack 0x002#32).map (fun t => t.reg.done) = some false ∧ (ack 0x004#32).map (fun t => t.reg.prog) = some false ∧
    (ack 0x100#32).map (fun t => t.reg.rdErr) = some false ∧ (ack 0x200#32).map (fun t => t.reg.cmdErr) = some false ∧
    (ack 0x400#32).map (fun t => t.reg.accErr) = some false ∧
    (after (exec (.wrStatus 0x706#32) s)).map (fun t => t.reg) = some Reg.initial ∧
    (after (step (present [.reset] s))).map (fun t => t.reg) = some Reg.initial ∧
    (perform (pend resend s)).reg = s.reg := by decide

/-- A refused write of SPB while RUNNING. -/
theorem test_witness_ConfigurationFixedWhileRunning :
    let s := present [.txn { desc := 0x10000010#32, operand := .word 3#32 }] (started fullChan)
    s.syn.state = .running ∧ (after (step s)).map (fun t => t.syn.state) = some .running := by decide

/-- A transaction that is no push with a push pending, and a push with none pending; a table word. -/
theorem test_witness_StepRunsPresentedTransaction :
    (pend resend (present [.txn tickTxn] (ready fullChan))).inbox = .txn tickTxn :: [] ∧
    decode tickTxn = .ok .tick ∧ isPushTxn tickTxn = false ∧
    isPushTxn { desc := 0x30010000#32, operand := .bytes [] } = true ∧
    decodeTableWord 32 0x30010000 = some (.pushLast 0#3 false []) ∧ State.reset.prd.pending = none :=
  ⟨rfl, rfl, rfl, rfl, by decide, rfl⟩

/-- With and without a pending push. -/
theorem test_witness_ResetStepClearsBlock :
    (present [.reset] State.reset).inbox = .reset :: [] ∧
    (present [.reset] (pend resend (started fullChan))).prd.pending ≠ none := by decide

/-- With and without a pending push, an event still to come behind the reset. -/
theorem test_witness_ResetKeepsModelFields :
    (after (step (present [.reset, .txn tickTxn] State.reset))).map (fun t => t.inbox) = some [.txn tickTxn] ∧
    (after (step (present [.reset, .txn tickTxn] (pend resend (started fullChan))))).map (fun t => t.trace) =
      some [.response .term] := by decide

theorem test_witness_ResetHasInvariant :
    Params.Legal { fifoLog2 := 1, lbufBytes := 1 } ∧ Params.Legal { fifoLog2 := 16, lbufBytes := 255 } := by decide

set_option synthInstance.maxSize 3000 in
/-- A step of each kind: a transaction, a perform, a reset, and nothing enabled. -/
theorem test_witness_StepKeepsInvariant :
    (Inv (present [.txn tickTxn] (started fullChan)) ∧ (after (step (present [.txn tickTxn] (started fullChan)))).isSome = true) ∧
    (Inv (present [.perform] (pend resend (ready (chan 0 [] false 0#3)))) ∧
      (after (step (present [.perform] (pend resend (ready (chan 0 [] false 0#3)))))).isSome = true) ∧
    (Inv (present [.reset] (started fullChan)) ∧ (after (step (present [.reset] (started fullChan)))).isSome = true) ∧
    (Inv State.reset ∧ after (step State.reset) = some State.reset) := by decide

theorem test_witness_ParametersNeverChange : (after (step (present [.reset] (started fullChan)))).isSome = true := by
  decide

set_option synthInstance.maxSize 3000 in
/-- A state whose step goes on, and one whose step is refused. -/
theorem test_witness_LegalStatesNeverFault :
    Inv (present [.txn tickTxn] (started fullChan)) ∧
    Inv (present [.txn { desc := 0x00000000#32, operand := .none }] State.reset) := by decide

set_option synthInstance.maxSize 3000 in
/-- A push, its perform and a tick that takes the byte. -/
theorem test_witness_ChannelDeliversInOrder :
    let s := present [.txn { desc := 0x30000001#32, operand := .bytes [0x81#8] }, .perform, .txn tickTxn]
      (started (chan 0 [] false 0#3))
    Inv s ∧ (sessionRun 3 s).map (fun x => (x.1, x.2.1)) = some ([0x81#8], [0x81#8]) := by decide

end Sys2Proof.Tests
end

section
/-! SUPPORT. What a transaction can do, said once: the effect of every transaction but TICK as one
relation, and the advance of a running tick as another. Every statement about all steps splits these
relations instead of unfolding `exec`. -/

namespace Sys2Proof.Machine

/-! ### Every transaction but TICK -/

/-- What a transaction other than TICK can do to the state (`exec_effect` ties it to `exec`). -/
inductive ExecEffect (s : State) : State → Prop where
  /-- NOP, or a push that waits behind a pending one. -/
  | unchanged : ExecEffect s s
  /-- A refused command (60_exceptions.md rule R181). -/
  | cmdErr (c : CmdCause) : ExecEffect s (raiseCmdErr c s)
  /-- A refused write access (60_exceptions.md rule R181). -/
  | accErr (c : AccCause) (off : Byte) : ExecEffect s (raiseAccErr c off s)
  /-- A read of a mapped register (40_control_port.md rule R90). -/
  | read (v : Word) : ExecEffect s (observe (.read v) s)
  /-- A read at an invalid offset (40_control_port.md rule R105). -/
  | readInvalid (c : AccCause) (off : Byte) : ExecEffect s (observe (.read 0#32) (raiseAccErr c off s))
  /-- A write to STATUS (40_control_port.md rule R111). -/
  | ack (d : Word) : ExecEffect s (ackStatus d s)
  /-- A write to IRQ_EN (40_control_port.md rule R112). -/
  | enables (e : IrqEn) : ExecEffect s { s with reg := { s.reg with irqEn := e } }
  /-- An accepted write of a configuration register (40_control_port.md rules R113 to R116). -/
  | configured (policy : Bool) (spb phaseInc block : Word) (hstate : s.syn.state ≠ .running) :
      ExecEffect s { s with reg := { s.reg with
        starvePolicy := policy, spb := spb, phaseInc := phaseInc, block := block } }
  /-- An accepted OPEN (40_control_port.md rule R108). -/
  | opened (hstate : s.syn.state ≠ .running) : ExecEffect s (openChannel s)
  /-- An accepted START (40_control_port.md rule R109). -/
  | started (hstate : s.syn.state ≠ .running) (hopen : s.fifo.isOpen = true) (hspb : s.reg.spb ≠ 0#32) :
      ExecEffect s (startTransmission s)
  /-- STOP (40_control_port.md rule R110). -/
  | stopped : ExecEffect s (stopTransmission s)
  /-- A push into a closed channel (41_producer_port.md rule R131). -/
  | pushTerm (hopen : s.fifo.isOpen = false) : ExecEffect s (respond .term s)
  /-- A push into an open channel (41_producer_port.md rule R131). -/
  | pushPending (r : PushReq) (hopen : s.fifo.isOpen = true) (hlen : r.data.length < 65536) :
      ExecEffect s { s with prd := { pending := some r } }

theorem answerRead_effect {v : Word} {s t : State} (h : answerRead v s = .next t) : ExecEffect s t :=
  Host.Outcome.next.inj h ▸ .read v

theorem issuePush_effect {r : PushReq} {s t : State} (h : issuePush r s = .next t) : ExecEffect s t := by
  obtain ⟨hlen, ⟨-, rfl⟩ | ⟨-, hopen, rfl⟩ | ⟨-, hopen, rfl⟩⟩ := issuePush_cases h
  · exact .unchanged
  · exact .pushTerm hopen
  · exact .pushPending r hopen hlen

/-- A configuration write refused or stored; the last hypothesis is the frame of the stored record. -/
theorem configWrite_effect {off : Byte} {r : Reg} {s t : State} (h : configWrite off r s = .next t)
    (hr : r = { s.reg with
      starvePolicy := r.starvePolicy, spb := r.spb, phaseInc := r.phaseInc, block := r.block }) :
    ExecEffect s t := by
  obtain ⟨-, rfl⟩ | ⟨hstate, rfl⟩ := configWrite_cases h
  · exact .accErr _ _
  · rw [hr]
    exact .configured _ _ _ _ hstate

theorem execWrCmdOpen_effect {s t : State} (h : execWrCmdOpen s = .next t) : ExecEffect s t := by
  unfold execWrCmdOpen at h
  split_ifs at h with hrun
  · exact Host.Outcome.next.inj h ▸ .cmdErr _
  · exact Host.Outcome.next.inj h ▸ .opened hrun

theorem execWrCmdStart_effect {s t : State} (h : execWrCmdStart s = .next t) : ExecEffect s t := by
  unfold execWrCmdStart at h
  split_ifs at h with hrun hclosed hspb
  · exact Host.Outcome.next.inj h ▸ .cmdErr _
  · exact Host.Outcome.next.inj h ▸ .cmdErr _
  · exact Host.Outcome.next.inj h ▸ .cmdErr _
  · exact Host.Outcome.next.inj h ▸ .started hrun (by simpa using hclosed) hspb

theorem execWrCmdReserved_effect {d : Word} {s t : State} (h : execWrCmdReserved d s = .next t) :
    ExecEffect s t := by
  unfold execWrCmdReserved at h
  split_ifs at h
  exact Host.Outcome.next.inj h ▸ .cmdErr _

theorem execWrInvalid_effect {off : Byte} {d : Word} {s t : State} (h : execWrInvalid off d s = .next t) :
    ExecEffect s t := by
  unfold execWrInvalid at h
  split at h
  · exact Host.Outcome.next.inj h ▸ .accErr _ _
  · cases h

theorem execRdInvalid_effect {off : Byte} {s t : State} (h : execRdInvalid off s = .next t) :
    ExecEffect s t := by
  unfold execRdInvalid at h
  split at h
  · exact Host.Outcome.next.inj h ▸ .readInvalid _ _
  · cases h

/-- Every transaction but TICK has one of the effects. -/
theorem exec_effect {i : Instr} {s t : State} (h : exec i s = .next t) (hi : i ≠ .tick) :
    ExecEffect s t := by
  cases i with
  | wrCmdNop => exact Host.Outcome.next.inj h ▸ .unchanged
  | wrCmdOpen => exact execWrCmdOpen_effect h
  | wrCmdStart => exact execWrCmdStart_effect h
  | wrCmdStop => exact Host.Outcome.next.inj h ▸ .stopped
  | wrCmdReserved d => exact execWrCmdReserved_effect h
  | wrStatus d => exact Host.Outcome.next.inj h ▸ .ack d
  | wrIrqEn d => exact Host.Outcome.next.inj h ▸ .enables _
  | wrConfig | wrSpb | wrPhaseInc | wrBlock => exact configWrite_effect h rfl
  | wrProgress | wrProgSnap | wrFifoLevel | wrParams | wrErrInfo =>
    exact Host.Outcome.next.inj h ▸ .accErr _ _
  | wrInvalid off d => exact execWrInvalid_effect (d := d) h
  | rdCmd | rdStatus | rdIrqEn | rdConfig | rdSpb | rdPhaseInc | rdBlock | rdProgress | rdProgSnap
  | rdFifoLevel | rdParams | rdErrInfo => exact answerRead_effect h
  | rdInvalid off => exact execRdInvalid_effect h
  | push | pushLast => exact issuePush_effect h
  | tick => exact absurd rfl hi

/-! ### The running tick -/

/-- The state after the bit at the bit cursor is loaded (42_synthesizer.md rule R152). -/
def bitLoaded (s : State) : State :=
  { s with syn := { s.syn with
      curBit := lbufBit s.syn.bc.index.toNat s
      bs := s.syn.bs.startOver.bump } }

theorem loadBit_ok {s s1 : State} {turn : TickTurn} (h : loadBit s = .ok (turn, s1)) :
    turn = .bit ∧ s1 = bitLoaded s := by
  obtain ⟨-, hl⟩ | ⟨-, hl⟩ := loadBit_cases s <;> rw [hl] at h <;> cases h
  exact ⟨rfl, rfl⟩

/-- The five ways a running tick that goes on advances (42_synthesizer.md rules R152, R155;
`tickAdvance_effect` ties it to `tickAdvance`). -/
inductive AdvanceEffect (s : State) : TickTurn → State → Prop where
  /-- A further sample of the current bit. -/
  | sample (hbs : s.syn.bs.isDone = false) :
      AdvanceEffect s .bit { s with syn := { s.syn with bs := s.syn.bs.bump } }
  /-- The next bit of the local buffer. -/
  | nextBit (hbs : s.syn.bs.isDone = true) (hbc : s.syn.bc.isLast = false) :
      AdvanceEffect s .bit (bitLoaded { s with syn := { s.syn with bc := s.syn.bc.bump } })
  /-- The first bit of a refilled buffer. -/
  | firstBit (hbs : s.syn.bs.isDone = true) (hbc : s.syn.bc.isLast = true) (hn : refillCount s ≠ 0) :
      AdvanceEffect s .bit (bitLoaded (refill s))
  /-- Nothing to refill from, under WAIT with no EOS. -/
  | starved (hbs : s.syn.bs.isDone = true) (hbc : s.syn.bc.isLast = true) (hn : refillCount s = 0)
      (hwait : (s.reg.starvePolicy && !s.fifo.eos) = true) : AdvanceEffect s .starved (refill s)
  /-- Nothing to refill from, under END or with EOS. -/
  | completed (hbs : s.syn.bs.isDone = true) (hbc : s.syn.bc.isLast = true) (hn : refillCount s = 0)
      (hend : (s.reg.starvePolicy && !s.fifo.eos) = false) : AdvanceEffect s .completed (refill s)

theorem tickAdvance_effect {s s1 : State} {turn : TickTurn} (h : tickAdvance s = .ok (turn, s1)) :
    AdvanceEffect s turn s1 := by
  obtain ⟨hbs, ha⟩ | ⟨hbs, hbc, ha⟩ | ⟨hbs, hbc, hn, ha⟩ | ⟨hbs, hbc, hn, hp, ha⟩ |
      ⟨hbs, hbc, hn, hp, ha⟩ :=
    tickAdvance_cases s <;> rw [ha] at h
  · cases h
    exact .sample hbs
  · obtain ⟨rfl, rfl⟩ := loadBit_ok h
    exact .nextBit hbs hbc
  · obtain ⟨rfl, rfl⟩ := loadBit_ok h
    exact .firstBit hbs hbc hn
  · cases h
    exact .starved hbs hbc hn hp
  · cases h
    exact .completed hbs hbc hn hp

/-- What no advance touches. -/
theorem AdvanceEffect.frame {s s1 : State} {turn : TickTurn} (h : AdvanceEffect s turn s1) :
    s1.params = s.params ∧ s1.trace = s.trace ∧ s1.syn.state = s.syn.state := by
  cases h <;> simp [bitLoaded]

@[simp] theorem tickEmit_params (turn : TickTurn) (s : State) : (tickEmit turn s).params = s.params := by
  simp only [tickEmit]
  split_ifs <;> rfl

@[simp] theorem tickEmit_syn_state (turn : TickTurn) (s : State) :
    (tickEmit turn s).syn.state = if turn = .completed then .done else s.syn.state := by
  simp only [tickEmit]
  split_ifs <;> rfl

theorem envelopeSample_active (env : Bool) (phase : Word) : (envelopeSample env phase).active = true := by
  cases env <;> rfl

/-- A running tick emits one record, active unless it completes (10_state.md rule R33). -/
theorem tickEmit_record (turn : TickTurn) (s : State) :
    ∃ x : Sample, (tickEmit turn s).trace = s.trace ++ [.sample x] ∧
      (x.active = true ↔ turn ≠ .completed) := by
  simp only [tickEmit]
  split_ifs with hc
  · exact ⟨silence false, rfl, by simp [silence, hc]⟩
  · exact ⟨_, rfl, by simp [envelopeSample_active, hc]⟩

end Sys2Proof.Machine
end

section
/-! SUPPORT. The invariant `Inv`: where it holds at the start, and that every shared operation keeps
it. -/

namespace Sys2Proof.Machine

/-! ### Its parts -/

theorem Inv.params {s : State} (hi : Inv s) : s.params.Legal := hi.1
theorem Inv.fifo {s : State} (hi : Inv s) : FifoInv s := hi.2.1
theorem Inv.prd {s : State} (hi : Inv s) : PrdInv s := hi.2.2.1
theorem Inv.syn {s : State} (hi : Inv s) : SynInv s := hi.2.2.2.1
theorem Inv.reg {s : State} (hi : Inv s) : RegInv s := hi.2.2.2.2

/-! ### At reset -/

theorem fifoInv_initial {s : State} (h : s.fifo = Fifo.initial) : FifoInv s := by
  unfold FifoInv
  rw [h]
  exact ⟨cap_pos s, Nat.zero_le _, rfl, by simp [Fifo.initial], by simp [Fifo.initial], fun _ => rfl⟩

theorem synInv_initial {s : State} (h : s.syn = Syn.initial) : SynInv s := by
  unfold SynInv
  rw [h]
  simp [Syn.initial, Cursor.Legal, Cursor.zero, Memory.wf, Memory.wfFrom]

theorem inv_resetWith {p : Params} (hp : p.Legal) : Inv (State.resetWith p) :=
  ⟨hp, fifoInv_initial rfl, by simp [PrdInv, State.resetWith], synInv_initial rfl,
    by simp [State.resetWith, Reg.initial]⟩

/-- The reset step gives the state after reset but for the model's own fields, which `Inv` does not
read. -/
theorem inv_resetBlock {s : State} (hi : Inv s) : Inv (resetBlock s) :=
  inv_resetWith hi.params

/-! ### Registers and answers -/

/-- A change of `reg` that keeps SPB and BLOCK, or is made outside RUNNING. -/
theorem inv_withReg {s : State} (hi : Inv s) {r : Reg}
    (hcode : r.errCode ∈ [0#4, 1#4, 2#4, 3#4, 4#4, 5#4, 8#4, 9#4, 10#4, 11#4])
    (hcfg : s.syn.state = .running → r.spb = s.reg.spb ∧ r.block = s.reg.block) :
    Inv { s with reg := r } := by
  obtain ⟨hp, hf, hprd, ⟨hbs, hbc, htot, hwf, hin, hidle, hopen, hst, hrun⟩, -⟩ := hi
  refine ⟨hp, hf, hprd, ⟨hbs, hbc, htot, hwf, hin, hidle, hopen, hst, fun h => ?_⟩, hcode⟩
  obtain ⟨hspb, hblock⟩ := hcfg h
  simpa only [hspb, hblock] using hrun h

theorem inv_raiseCmdErr {s : State} (hi : Inv s) (c : CmdCause) : Inv (raiseCmdErr c s) :=
  inv_withReg hi (by cases c <;> simp [cmdCode]) fun _ => ⟨rfl, rfl⟩

theorem inv_raiseAccErr {s : State} (hi : Inv s) (c : AccCause) (off : Byte) : Inv (raiseAccErr c off s) :=
  inv_withReg hi (by cases c <;> simp [accCode]) fun _ => ⟨rfl, rfl⟩

theorem inv_ackStatus {s : State} (hi : Inv s) (d : Word) : Inv (ackStatus d s) :=
  inv_withReg hi hi.reg fun _ => ⟨rfl, rfl⟩

/-- The record of the ports is no part of the invariant. -/
theorem inv_observe {s : State} (hi : Inv s) (o : Obs) : Inv (observe o s) := hi

theorem inv_respond {s : State} (hi : Inv s) (r : Response) : Inv (respond r s) := hi

/-- The steps still to come are no part of the invariant. -/
theorem inv_withInbox {s : State} (hi : Inv s) (l : List Event) : Inv { s with inbox := l } := hi

/-! ### Commands -/

theorem inv_openChannel {s : State} (hi : Inv s) : Inv (openChannel s) := by
  obtain ⟨hp, -, -, ⟨hbs, hbc, htot, hwf, hin, hidle, -, hst, hrun⟩, hcode⟩ := hi
  refine ⟨by simpa using hp, ?_, ?_, ?_, by simpa [RegInv] using hcode⟩
  · simp [FifoInv, Memory.wf, Memory.wfFrom, cap_pos]
  · simp [PrdInv]
  · simp only [SynInv, openChannel_syn, openChannel_params, openChannel_reg, openChannel_fifo]
    exact ⟨hbs, hbc, htot, hwf, hin, hidle, fun _ => trivial, hst, hrun⟩

theorem inv_stopTransmission {s : State} (hi : Inv s) : Inv (stopTransmission s) :=
  ⟨by simpa using hi.params, fifoInv_initial (by simp), by simp [PrdInv], synInv_initial (by simp),
    by simpa [RegInv] using hi.reg⟩

theorem inv_startTransmission {s : State} (hi : Inv s) (hopen : s.fifo.isOpen = true)
    (hspb : s.reg.spb ≠ 0#32) : Inv (startTransmission s) := by
  obtain ⟨hp, hf, hprd, -, hcode⟩ := hi
  refine ⟨hp, hf, hprd, ?_, hcode⟩
  refine ⟨BitVec.le_refl _, BitVec.le_refl _, Nat.zero_le _, rfl, by simp, by simp, fun _ => hopen, by simp,
    fun _ => ⟨hspb, rfl, fun _ => rfl, fun (hb : s.reg.block ≠ 0#32) => ?_⟩⟩
  show 0#32 < s.reg.block
  bv_omega

/-! ### The producer port -/

theorem inv_pushPending {s : State} (hi : Inv s) {r : PushReq} (hopen : s.fifo.isOpen = true)
    (hlen : r.data.length < 65536) : Inv { s with prd := { pending := some r } } := by
  obtain ⟨hp, hf, -, hsyn, hcode⟩ := hi
  refine ⟨hp, hf, fun q hq => ?_, hsyn, hcode⟩
  cases hq
  exact ⟨hopen, hlen⟩

theorem inv_takePending {s : State} (hi : Inv s) : Inv { s with prd := { pending := none } } := by
  obtain ⟨hp, hf, -, hsyn, hcode⟩ := hi
  exact ⟨hp, hf, by simp [PrdInv], hsyn, hcode⟩

/-- A change of `fifo` in an open channel that stays open. -/
theorem inv_withFifo {s : State} (hi : Inv s) {f : Fifo} (hopen : f.isOpen = true)
    (hrd : f.rd < s.cap) (hcount : f.count ≤ s.cap) (hwf : f.mem.wf = true) (hin : f.mem.Within s.cap)
    (htail : f.tail ≠ 0#3 → f.eos = true) : Inv { s with fifo := f } := by
  obtain ⟨hp, -, hprd, ⟨hbs, hbc, htot, hlwf, hlin, hidle, -, hst, hrun⟩, hcode⟩ := hi
  exact ⟨hp, ⟨hrd, hcount, hwf, hin, htail, fun hc => absurd (hopen.symm.trans hc) (by simp)⟩,
    fun r hr => ⟨hopen, (hprd r hr).2⟩,
    ⟨hbs, hbc, htot, hlwf, hlin, hidle, fun _ => hopen, hst, hrun⟩, hcode⟩

theorem inv_fifoWrite {s : State} (hi : Inv s) (hopen : s.fifo.isOpen = true) {bs : List Byte}
    (hlen : bs.length ≤ s.freeRun) : Inv (fifoWrite bs s) := by
  obtain ⟨hrd, hcount, hwf, hin, htail, -⟩ := hi.fifo
  have hfree := freeRun_le s
  have hroom := wr_add_freeRun_le s
  refine inv_withFifo hi hopen hrd ?_ (writeBytes_wf hwf _ _) (writeBytes_within hin ?_) htail
  · show s.fifo.count + bs.length ≤ s.cap
    omega
  · omega

theorem inv_fifoDrop {s : State} (hi : Inv s) (hopen : s.fifo.isOpen = true) (n : Nat) :
    Inv (fifoDrop n s) := by
  obtain ⟨-, hcount, hwf, hin, htail, -⟩ := hi.fifo
  exact inv_withFifo hi hopen (Nat.mod_lt _ (cap_pos s)) ((Nat.sub_le _ _).trans hcount) hwf hin htail

theorem inv_endStream {s : State} (hi : Inv s) (hopen : s.fifo.isOpen = true) (tail : BitVec 3) (err : Bool) :
    Inv (endStream tail err s) := by
  obtain ⟨hrd, hcount, hwf, hin, -, -⟩ := hi.fifo
  have hfifo : Inv { s with fifo := { s.fifo with eos := true, tail := tail } } :=
    inv_withFifo hi hopen hrd hcount hwf hin fun _ => rfl
  exact inv_withReg hfifo hi.reg fun _ => ⟨rfl, rfl⟩

theorem inv_performReq {s : State} (hi : Inv s) (hopen : s.fifo.isOpen = true) (r : PushReq) :
    Inv (performReq r s) := by
  obtain ⟨-, hq⟩ | ⟨-, -, hq⟩ | ⟨-, -, hq⟩ := performReq_cases r s <;> rw [hq] <;> apply inv_respond
  · exact hi
  · split_ifs
    exacts [inv_endStream hi hopen _ _, hi]
  · have hw : Inv (fifoWrite (r.data.take (min r.data.length s.freeRun)) s) :=
      inv_fifoWrite hi hopen (by simp)
    split_ifs
    exacts [inv_endStream hw hopen _ _, hw]

/-- A perform finds an open channel, since the push was issued into one. -/
theorem inv_perform {s : State} (hi : Inv s) : Inv (perform s) := by
  obtain ⟨-, hq⟩ | ⟨-, r, hr, -, hq⟩ := perform_cases s <;> rw [hq]
  · exact hi
  · exact inv_performReq (inv_takePending hi) (hi.prd r hr).1 r

/-! ### The running tick -/

/-- A change of `syn` inside RUNNING that keeps `bs.total` and `blk`. -/
theorem inv_withSyn {s : State} (hi : Inv s) (hrun : s.syn.state = .running) {y : Syn}
    (hstate : y.state = .running) (hbs : y.bs.Legal) (hbc : y.bc.Legal)
    (htot : y.bc.total.toNat ≤ 8 * s.params.lbufBytes) (hwf : y.lbuf.wf = true)
    (hin : y.lbuf.Within s.params.lbufBytes) (hbsTotal : y.bs.total = s.syn.bs.total)
    (hblk : y.blk = s.syn.blk) : Inv { s with syn := y } := by
  obtain ⟨hp, hf, hprd, ⟨-, -, -, -, -, -, hopen, -, hsess⟩, hcode⟩ := hi
  refine ⟨hp, hf, hprd, ⟨hbs, hbc, htot, hwf, hin, ?_, ?_, fun _ => hstate, fun _ => ?_⟩, hcode⟩
  · simp [hstate]
  · exact fun _ => hopen (by simp [hrun])
  · simpa only [hbsTotal, hblk] using hsess hrun

/-- A Cursor that is not done can be bumped: the index cannot wrap (10_state.md rules R13, R16). -/
theorem bump_legal {c : Cursor} (h : c.index.toNat < c.total.toNat) : c.bump.Legal := by
  simp only [Cursor.Legal, Cursor.bump]
  bv_omega

theorem inv_bitLoaded {s : State} (hi : Inv s) (hrun : s.syn.state = .running) : Inv (bitLoaded s) := by
  obtain ⟨-, hbc, htot, hwf, hin, -, -, -, hsess⟩ := hi.syn
  obtain ⟨hspb, hbsTotal, -⟩ := hsess hrun
  have hpos : 0 < s.syn.bs.total.toNat := by
    rw [hbsTotal]
    bv_omega
  exact inv_withSyn hi hrun hrun (bump_legal hpos) hbc htot hwf hin rfl rfl

/-- A refill takes no more bytes than the local buffer holds, so `bc.total` counts bits inside it. -/
theorem inv_refill {s : State} (hi : Inv s) (hrun : s.syn.state = .running) : Inv (refill s) := by
  obtain ⟨hbs, hbc, htot, hwf, hin, -, hopen, -, -⟩ := hi.syn
  have hn : refillCount s ≤ s.params.lbufBytes := refillCount_le_lbuf s
  obtain ⟨-, -, -, hlbuf⟩ := hi.params
  have hdrop : Inv (fifoDrop (refillCount s) s) := inv_fifoDrop hi (hopen (by simp [hrun])) _
  have hreg := inv_withReg (r := (refill s).reg) hdrop (by simpa using hi.reg) (by simp)
  obtain ⟨hbcLegal, hbcFits⟩ : (refill s).syn.bc.Legal ∧ (refill s).syn.bc.total.toNat ≤ 8 * s.params.lbufBytes := by
    rw [refill_syn_bc]
    split_ifs
    · exact ⟨BitVec.le_def.2 (Nat.zero_le _), by rw [BitVec.toNat_ofNat]; omega⟩
    · exact ⟨hbc, htot⟩
  have hsyn := inv_withSyn (y := (refill s).syn) hreg hrun (by simpa using hrun) (by simpa using hbs)
    hbcLegal hbcFits (by simpa using writeBytes_wf hwf _ _)
    (by simpa using writeBytes_within hin (by simpa using hn)) (by simp) (by simp)
  have heq : refill s =
      { fifoDrop (refillCount s) s with reg := (refill s).reg, syn := (refill s).syn } := by
    simp only [refill]
    split_ifs <;> rfl
  exact heq ▸ hsyn

theorem inv_advance {s s1 : State} {turn : TickTurn} (hi : Inv s) (hrun : s.syn.state = .running)
    (h : AdvanceEffect s turn s1) : Inv s1 := by
  obtain ⟨hbs, hbc, htot, hwf, hin, -⟩ := hi.syn
  cases h with
  | sample hd =>
    have hlt : s.syn.bs.index.toNat < s.syn.bs.total.toNat := by
      simpa using mt (isDone_iff s.syn.bs).2 (by simp [hd])
    exact inv_withSyn hi hrun hrun (bump_legal hlt) hbc htot hwf hin rfl rfl
  | nextBit _ hl =>
    have hlt : s.syn.bc.index.toNat + 1 < s.syn.bc.total.toNat := by
      simpa using mt (isLast_iff s.syn.bc).2 (by simp [hl])
    exact inv_bitLoaded (inv_withSyn hi hrun hrun hbs (bump_legal (by omega)) htot hwf hin rfl rfl) hrun
  | firstBit => exact inv_bitLoaded (inv_refill hi hrun) (by simpa using hrun)
  | starved => exact inv_refill hi hrun
  | completed => exact inv_refill hi hrun

/-- `Complete()` leaves RUNNING, and STARVED falls with it (42_synthesizer.md rule R155). -/
theorem inv_complete {s : State} (hi : Inv s) (hrun : s.syn.state = .running) (hst : s.syn.starved = false) :
    Inv (complete s) := by
  obtain ⟨hp, hf, hprd, ⟨hbs, hbc, htot, hwf, hin, -, hopen, -, -⟩, hcode⟩ := hi
  refine ⟨hp, hf, hprd, ?_, hcode⟩
  simp only [SynInv, complete_syn, complete_params, complete_fifo]
  exact ⟨hbs, hbc, htot, hwf, hin, by simp, fun _ => hopen (by simp [hrun]), by simp [hst], by simp⟩

theorem inv_tickEmit {s : State} (hi : Inv s) (hrun : s.syn.state = .running) (turn : TickTurn) :
    Inv (tickEmit turn s) := by
  obtain ⟨hbs, hbc, htot, hwf, hin, -⟩ := hi.syn
  have hst : Inv { s with syn := { s.syn with starved := decide (turn = .starved) } } :=
    inv_withSyn hi hrun hrun hbs hbc htot hwf hin rfl rfl
  simp only [tickEmit]
  split_ifs with hc
  · exact inv_complete hst hrun (by simp [hc])
  · exact inv_withSyn hst hrun hrun hbs hbc htot hwf hin rfl rfl

/-- A change of `blk` inside its block (42_synthesizer.md rule R159). -/
theorem inv_withBlk {s : State} (hi : Inv s) (hidle : s.syn.state ≠ .idle) {b : Word}
    (hzero : s.reg.block = 0#32 → b = 0#32)
    (hlt : s.syn.state = .running → s.reg.block ≠ 0#32 → b < s.reg.block) :
    Inv { s with syn := { s.syn with blk := b } } := by
  obtain ⟨hp, hf, hprd, ⟨hbs, hbc, htot, hwf, hin, -, hopen, hst, hsess⟩, hcode⟩ := hi
  refine ⟨hp, hf, hprd, ⟨hbs, hbc, htot, hwf, hin, fun h => absurd h hidle, hopen, hst, fun hrun => ?_⟩, hcode⟩
  obtain ⟨hspb, hbsTotal, -⟩ := hsess hrun
  exact ⟨hspb, hbsTotal, hzero, hlt hrun⟩

/-- `blk` stays below BLOCK: the tick that would reach it starts a new block (42_synthesizer.md rule
R159). -/
theorem inv_progressTick {s : State} (hi : Inv s) (hidle : s.syn.state ≠ .idle) : Inv (progressTick s) := by
  unfold progressTick
  split_ifs with hzero hend
  · exact hi
  · have hblk := inv_withBlk hi hidle (fun _ => rfl) fun _ hb => (by bv_omega : 0#32 < s.reg.block)
    exact inv_withReg hblk hi.reg fun _ => ⟨rfl, rfl⟩
  · refine inv_withBlk hi hidle (fun hb => absurd hb hzero) fun hrun hb => ?_
    obtain ⟨-, -, -, -, -, -, -, -, hsess⟩ := hi.syn
    obtain ⟨-, -, -, hblk⟩ := hsess hrun
    have hlt := hblk hb
    bv_omega

/-! ### Every step -/

theorem inv_execTick {s t : State} (hi : Inv s) (h : execTick s = .next t) : Inv t := by
  obtain ⟨-, rfl⟩ | ⟨hrun, turn, s1, ha, rfl⟩ := execTick_cases h
  · exact inv_observe hi _
  · have he := tickAdvance_effect ha
    obtain ⟨-, -, hstate⟩ := he.frame
    have hrun1 : s1.syn.state = .running := hstate.trans hrun
    apply inv_progressTick (inv_tickEmit (inv_advance hi hrun he) hrun1 turn)
    rw [tickEmit_syn_state, hrun1]
    split_ifs <;> simp

theorem inv_effect {s t : State} (hi : Inv s) (h : ExecEffect s t) : Inv t := by
  cases h with
  | unchanged => exact hi
  | cmdErr c => exact inv_raiseCmdErr hi c
  | accErr c off => exact inv_raiseAccErr hi c off
  | read v => exact inv_observe hi _
  | readInvalid c off => exact inv_observe (inv_raiseAccErr hi c off) _
  | ack d => exact inv_ackStatus hi d
  | enables e => exact inv_withReg hi hi.reg fun _ => ⟨rfl, rfl⟩
  | configured policy spb phaseInc block hstate =>
    exact inv_withReg hi hi.reg fun hrun => absurd hrun hstate
  | opened => exact inv_openChannel hi
  | started _ hopen hspb => exact inv_startTransmission hi hopen hspb
  | stopped => exact inv_stopTransmission hi
  | pushTerm => exact inv_respond hi _
  | pushPending r hopen hlen => exact inv_pushPending hi hopen hlen

theorem inv_exec {i : Instr} {s t : State} (hi : Inv s) (h : exec i s = .next t) : Inv t := by
  by_cases htick : i = .tick
  · subst htick
    exact inv_execTick hi h
  · exact inv_effect hi (exec_effect h htick)

theorem inv_nextEvent {s s1 : State} {e : Event} (hi : Inv s) (h : nextEvent s = some (e, s1)) : Inv s1 := by
  obtain ⟨-, rest, -, rfl⟩ := nextEvent_some h
  exact inv_withInbox hi rest

theorem inv_step {s t : State} (hi : Inv s) (h : step s = .next t) : Inv t := by
  obtain ⟨-, rfl⟩ | ⟨s1, hn, rfl⟩ | ⟨s1, hn, rfl⟩ | ⟨x, s1, i, hn, -, hx⟩ := step_cases h
  · exact hi
  · exact inv_perform (inv_nextEvent hi hn)
  · exact inv_resetBlock (inv_nextEvent hi hn)
  · exact inv_exec (inv_nextEvent hi hn) hx

end Sys2Proof.Machine
end

section
/-! The statements of 10_state.md. -/

namespace Sys2Proof.Machine

/-- Settles O52: each shared operation keeps the invariant (`inv_step`). -/
theorem stepKeepsInvariant : Obligations.StepKeepsInvariant :=
  fun _ _ hi h => inv_step hi h

/-- Settles O51. -/
theorem resetHasInvariant : Obligations.ResetHasInvariant :=
  ⟨fun _ hp => inv_resetWith hp, inv_resetWith (by decide)⟩

/-! ### The output port -/

/-- No transaction but TICK puts a record on the sample output port. -/
theorem ExecEffect.samples {s t : State} (h : ExecEffect s t) :
    t.trace.filter Obs.isSample = s.trace.filter Obs.isSample := by
  have hterm : (if s.prd.pending = none then s.trace else s.trace ++ [.response .term]).filter Obs.isSample =
      s.trace.filter Obs.isSample := by
    split_ifs <;> simp [Obs.isSample]
  cases h with
  | unchanged | cmdErr | accErr | ack | enables | configured | started | pushPending => rfl
  | read | readInvalid | pushTerm => simp [Obs.isSample]
  | opened => rw [openChannel_trace, hterm]
  | stopped => rw [stopTransmission_trace, hterm]

/-- A TICK's record is active exactly when the block was RUNNING and stays so. -/
theorem execTick_record {s t : State} (h : execTick s = .next t) :
    ∃ x : Sample, t.trace = s.trace ++ [.sample x] ∧
      (x.active = true ↔ s.syn.state = .running ∧ t.syn.state = .running) := by
  obtain ⟨hidle, rfl⟩ | ⟨hrun, turn, s1, ha, rfl⟩ := execTick_cases h
  · exact ⟨silence false, rfl, by simp [silence, hidle]⟩
  · obtain ⟨-, htrace, hstate⟩ := (tickAdvance_effect ha).frame
    obtain ⟨x, hx, hactive⟩ := tickEmit_record turn s1
    refine ⟨x, by rw [progressTick_trace, hx, htrace], ?_⟩
    rw [hactive, progressTick_syn_state, tickEmit_syn_state, hstate, hrun]
    split_ifs with hc <;> simp [hc]

/-- Settles O40. -/
theorem oneRecordPerTick : Obligations.OneRecordPerTick := by
  intro i s t h
  refine ⟨?_, fun hi => (exec_effect h hi).samples⟩
  rintro rfl
  exact execTick_record h

/-! ### The parameters -/

theorem ExecEffect.params_eq {s t : State} (h : ExecEffect s t) : t.params = s.params := by
  cases h with
  | opened => exact openChannel_params s
  | stopped => exact stopTransmission_params s
  | _ => rfl

theorem exec_params {i : Instr} {s t : State} (h : exec i s = .next t) : t.params = s.params := by
  by_cases htick : i = .tick
  · subst htick
    obtain ⟨-, rfl⟩ | ⟨-, turn, s1, ha, rfl⟩ := execTick_cases h
    · rfl
    · obtain ⟨hparams, -⟩ := (tickAdvance_effect ha).frame
      rw [progressTick_params, tickEmit_params, hparams]
  · exact (exec_effect h htick).params_eq

@[simp] theorem performReq_params (r : PushReq) (s : State) : (performReq r s).params = s.params := by
  obtain ⟨-, hq⟩ | ⟨-, -, hq⟩ | ⟨-, -, hq⟩ := performReq_cases r s <;> rw [hq, respond_params] <;>
    split_ifs <;> rfl

@[simp] theorem perform_params (s : State) : (perform s).params = s.params := by
  obtain ⟨-, hq⟩ | ⟨-, r, -, -, hq⟩ := perform_cases s <;> rw [hq]
  exact performReq_params r _

theorem nextEvent_params {s s1 : State} {e : Event} (h : nextEvent s = some (e, s1)) :
    s1.params = s.params := by
  obtain ⟨-, rest, -, rfl⟩ := nextEvent_some h
  rfl

/-- Settles O53. -/
theorem parametersNeverChange : Obligations.ParametersNeverChange := by
  intro s t h
  obtain ⟨-, rfl⟩ | ⟨s1, hn, rfl⟩ | ⟨s1, hn, rfl⟩ | ⟨x, s1, i, hn, -, hx⟩ := step_cases h
  · rfl
  · rw [perform_params, nextEvent_params hn]
  · rw [resetBlock_params, nextEvent_params hn]
  · rw [exec_params hx, nextEvent_params hn]

/-! ### The words and quantities composed from state -/

/-- The interrupt line source by source (10_state.md rule R29). -/
theorem irq_iff (s : State) : irq s = true ↔
    (s.reg.done = true ∧ s.reg.irqEn.done = true) ∨ (s.reg.prog = true ∧ s.reg.irqEn.prog = true) ∨
    (s.reg.rdErr = true ∧ s.reg.irqEn.rdErr = true) ∨ (s.reg.cmdErr = true ∧ s.reg.irqEn.cmdErr = true) ∨
    (s.reg.accErr = true ∧ s.reg.irqEn.accErr = true) := by
  simp only [irq, Bool.or_eq_true, Bool.and_eq_true, or_assoc]

@[simp] theorem irq_resetWith (p : Params) : irq (State.resetWith p) = false := rfl

/-- Settles O21. -/
theorem interruptLineIsEnabledPending : Obligations.InterruptLineIsEnabledPending :=
  ⟨irq_iff, irq_resetWith⟩

/-- After reset STATUS shows EMPTY alone: the channel has room for at least one byte, so FULL is 0. -/
theorem statusWord_resetWith (p : Params) : statusWord (State.resetWith p) = 0x00000010#32 := by
  have hfull : decide ((State.resetWith p).fifo.count = (State.resetWith p).cap) = false :=
    decide_eq_false (cap_pos _).ne
  rw [statusWord, hfull]
  simp [State.resetWith, Fifo.initial, Syn.initial, Reg.initial, held, irq, bitAt]

theorem errInfoWord_resetWith (p : Params) : errInfoWord (State.resetWith p) = 0#32 := by
  simp [errInfoWord, State.resetWith, Reg.initial]

/-- Settles O50. -/
theorem resetDerivedValues : Obligations.ResetDerivedValues := fun p =>
  ⟨statusWord_resetWith p, irq_resetWith p, rfl, errInfoWord_resetWith p,
    decide_eq_true (cap_pos (State.resetWith p)), rfl⟩

/-- `free_run` is 0 only in a full channel, since `wr` is below the capacity. -/
theorem freeRun_eq_zero_iff {s : State} (hcount : s.fifo.count ≤ s.cap) :
    s.freeRun = 0 ↔ s.fifo.count = s.cap := by
  have hwr := wr_lt_cap s
  unfold State.freeRun
  omega

/-- `data_run` is 0 only in an empty channel, since `rd` is below the capacity. -/
theorem dataRun_eq_zero_iff {s : State} (hrd : s.fifo.rd < s.cap) :
    s.dataRun = 0 ↔ s.fifo.count = 0 := by
  unfold State.dataRun
  omega

/-- Settles O42: the formulas are the model's, and the two zero conditions come from the ranges of `rd`
and `count`. -/
theorem channelQuantities : Obligations.ChannelQuantities := by
  rintro s ⟨-, ⟨hrd, hcount, -⟩, -⟩
  exact ⟨rfl, rfl, rfl, decide_eq_true_iff, decide_eq_true_iff, freeRun_eq_zero_iff hcount,
    dataRun_eq_zero_iff hrd⟩

/-! ### Cursors -/

theorem bump_index_toNat (c : Cursor) : c.bump.index.toNat = (c.index.toNat + 1) % 2 ^ 32 :=
  BitVec.toNat_add c.index 1#32

/-- `is_last` in the rule's own terms; `isLast_iff` is its form without the modulus. -/
theorem isLast_iff_pred_or_done (c : Cursor) : c.isLast = true ↔
    c.index.toNat = (c.total.toNat + (2 ^ 32 - 1)) % 2 ^ 32 ∨ c.total.toNat ≤ c.index.toNat := by
  have hindex := c.index.isLt
  have htotal := c.total.isLt
  rw [isLast_iff]
  omega

/-- Settles O41. -/
theorem cursorOperations : Obligations.CursorOperations := fun c =>
  ⟨rfl, rfl, rfl, bump_index_toNat c, isDone_iff c, isLast_iff_pred_or_done c⟩

/-! ### The sine table -/

/-- Half a period ahead the table is negated (10_state.md rule R32), row by row over its 256 rows. -/
theorem lut_add_half : ∀ k : Byte, lut (k + 128#8) = -lut k := by decide

theorem lut_ne_min : ∀ k : Byte, lut k ≠ 0x80#8 := by decide

/-- Settles O39. -/
theorem sineTableSymmetry : Obligations.SineTableSymmetry :=
  ⟨fun k => ⟨lut_add_half k, lut_ne_min k⟩, by decide⟩

end Sys2Proof.Machine
end

section
/-! SUPPORT. The byte stream the channel stores, and what each operation makes of it (20_memory.md rules
R54, R55, R61). -/

namespace Sys2Proof.Machine

/-! ### The channel's primitives on the stream -/

@[simp] theorem stored_length (s : State) : (stored s).length = s.fifo.count := by
  simp [stored]

/-- The stream is a function of the channel and the capacity alone. -/
theorem stored_congr {s t : State} (hfifo : t.fifo = s.fifo) (hparams : t.params = s.params) :
    stored t = stored s := by
  simp only [stored, State.cap, hfifo, hparams]

/-- FifoRead returns the oldest bytes: within `data_run` the ring does not wrap (20_memory.md rule R54). -/
theorem fifoPeek_eq_take {n : Nat} {s : State} (hn : n ≤ s.dataRun) : fifoPeek n s = (stored s).take n := by
  have hcount := hn.trans (dataRun_le_count s)
  have hroom := hn.trans (dataRun_le_room s)
  rw [fifoPeek, readBytes_eq_map, stored, ← List.map_take, List.take_range, min_eq_left hcount]
  refine List.map_congr_left fun i hi => ?_
  have hin : s.fifo.rd + i < s.cap := by
    have := List.mem_range.mp hi
    omega
  rw [Nat.mod_eq_of_lt hin]

/-- FifoRead takes the oldest bytes off and keeps the others in order (20_memory.md rule R54). -/
theorem stored_fifoDrop (n : Nat) (s : State) : stored (fifoDrop n s) = (stored s).drop n := by
  refine List.ext_getElem (by simp) fun i _ _ => ?_
  simp only [stored, List.getElem_map, List.getElem_range, List.getElem_drop, fifoDrop_fifo, fifoDrop_cap,
    Nat.mod_add_mod, Nat.add_assoc]

/-- Within `free_run` the slots FifoWrite fills follow the stored ones around the ring. -/
theorem wr_add_eq_slot {s : State} {j : Nat} (hj : j < s.freeRun) :
    s.wr + j = (s.fifo.rd + (s.fifo.count + j)) % s.cap := by
  have hroom := wr_add_freeRun_le s
  have hin : s.wr + j < s.cap := by omega
  rw [← Nat.add_assoc, ← Nat.mod_add_mod, ← State.wr, Nat.mod_eq_of_lt hin]

/-- No stored byte lies in a slot that FifoWrite fills. -/
theorem slot_ne_wr_add {s : State} {i j : Nat} (hi : i < s.fifo.count) (hj : j < s.freeRun) :
    (s.fifo.rd + i) % s.cap ≠ s.wr + j := by
  intro heq
  rw [wr_add_eq_slot hj] at heq
  have hfree := freeRun_le s
  have hmod : i ≡ s.fifo.count + j [MOD s.cap] := Nat.ModEq.add_left_cancel' s.fifo.rd heq
  have := hmod.eq_of_lt_of_lt (by omega) (by omega)
  omega

/-- FifoWrite appends its bytes to the stream (20_memory.md rule R55). -/
theorem stored_fifoWrite {s : State} (hwf : s.fifo.mem.wf = true) {bs : List Byte}
    (hlen : bs.length ≤ s.freeRun) : stored (fifoWrite bs s) = stored s ++ bs := by
  simp only [stored, fifoWrite_fifo, fifoWrite_cap, List.range_add, List.map_append, List.map_map]
  congr 1
  · refine List.map_congr_left fun i hi => ?_
    have hold : ¬ (s.wr ≤ (s.fifo.rd + i) % s.cap ∧ (s.fifo.rd + i) % s.cap < s.wr + bs.length) := by
      rintro ⟨hlo, hhi⟩
      obtain ⟨j, hj⟩ := Nat.exists_eq_add_of_le hlo
      exact slot_ne_wr_add (List.mem_range.mp hi) (by omega) hj
    rw [read_writeBytes hwf, if_neg hold]
  · refine List.ext_getElem (by simp) fun j _ hj => ?_
    have hnew : s.wr ≤ s.wr + j ∧ s.wr + j < s.wr + bs.length := by omega
    simp only [List.getElem_map, List.getElem_range, Function.comp]
    rw [← wr_add_eq_slot (by omega), read_writeBytes hwf, if_pos hnew, Nat.add_sub_cancel_left,
      List.getD_eq_getElem _ _ hj]

/-! ### Refill -/

theorem fifoPeek_refillCount (s : State) : fifoPeek (refillCount s) s = (stored s).take (refillCount s) :=
  fifoPeek_eq_take (refillCount_le_dataRun s)

@[simp] theorem stored_refill (s : State) : stored (refill s) = (stored s).drop (refillCount s) :=
  (stored_congr (refill_fifo s) (refill_params s)).trans (stored_fifoDrop _ s)

/-- The local buffer after a refill: the bytes taken first, the others as they were (42_synthesizer.md
rule R153). -/
theorem read_lbuf_refill {s : State} (hwf : s.syn.lbuf.wf = true) (k : Nat) :
    (refill s).syn.lbuf.read k =
      if k < refillCount s then (stored s).getD k 0x00#8 else s.syn.lbuf.read k := by
  rw [refill_syn_lbuf, read_writeBytes hwf, fifoPeek_length]
  simp only [Nat.zero_le, true_and, Nat.zero_add, Nat.sub_zero, Memory.blank]
  refine if_ctx_congr Iff.rfl (fun hk => ?_) fun _ => rfl
  rw [fifoPeek_refillCount, List.getD_eq_getElem?_getD, List.getD_eq_getElem?_getD,
    List.getElem?_take_of_lt hk]

/-! ### Perform -/

@[simp] theorem stored_respond (r : Response) (s : State) : stored (respond r s) = stored s := rfl

@[simp] theorem stored_endStream (tail : BitVec 3) (err : Bool) (s : State) :
    stored (endStream tail err s) = stored s := rfl

/-- A perform appends the accepted portion of its push, and nothing on PROTO (41_producer_port.md rule
R133). -/
theorem stored_performReq {s : State} (hwf : s.fifo.mem.wf = true) (r : PushReq) :
    stored (performReq r s) = stored s ++ if proto r s then [] else r.data.take s.freeRun := by
  obtain ⟨hproto, hq⟩ | ⟨hproto, hempty, hq⟩ | ⟨hproto, -, hq⟩ := performReq_cases r s
  · simp [hq, hproto]
  · simp [hq, hproto, List.length_eq_zero_iff.mp hempty, apply_ite stored]
  · have htake : r.data.take (min r.data.length s.freeRun) = r.data.take s.freeRun := by
      rw [min_comm]
      exact List.take_eq_take_min.symm
    have hlen : (r.data.take s.freeRun).length ≤ s.freeRun := List.length_take_le _ _
    simp [hq, hproto, htake, apply_ite stored, stored_fifoWrite hwf hlen]

/-! ### The tick -/

@[simp] theorem tickEmit_fifo (turn : TickTurn) (s : State) : (tickEmit turn s).fifo = s.fifo := by
  simp only [tickEmit]
  split_ifs <;> rfl

/-- The bytes a TICK takes from the channel: those of its refill, if it refills (42_synthesizer.md rules
R152, R153; `takenBy_tick` ties it to `takenBy`). -/
def tickTakes (s : State) : List Byte :=
  if s.syn.state = .running ∧ s.syn.bs.isDone = true ∧ s.syn.bc.isLast = true
  then fifoPeek (refillCount s) s else []

theorem tickTakes_append_refill {s : State} (hrun : s.syn.state = .running) (hbs : s.syn.bs.isDone = true)
    (hbc : s.syn.bc.isLast = true) : tickTakes s ++ stored (refill s) = stored s := by
  rw [tickTakes, if_pos ⟨hrun, hbs, hbc⟩, fifoPeek_refillCount, stored_refill, List.take_append_drop]

/-- An advance takes its bytes off the front of the stream. -/
theorem AdvanceEffect.stored_eq {s s1 : State} {turn : TickTurn} (h : AdvanceEffect s turn s1)
    (hrun : s.syn.state = .running) : stored s = tickTakes s ++ stored s1 := by
  cases h with
  | sample hbs =>
    have hnone : tickTakes s = [] := if_neg (by simp [hbs])
    rw [hnone]
    rfl
  | nextBit _ hbc =>
    have hnone : tickTakes s = [] := if_neg (by simp [hbc])
    rw [hnone]
    rfl
  | firstBit hbs hbc | starved hbs hbc | completed hbs hbc =>
    exact (tickTakes_append_refill hrun hbs hbc).symm

theorem execTick_stored {s t : State} (h : execTick s = .next t) : stored s = tickTakes s ++ stored t := by
  obtain ⟨hidle, rfl⟩ | ⟨hrun, turn, s1, ha, rfl⟩ := execTick_cases h
  · have hnone : tickTakes s = [] := if_neg (by simp [hidle])
    rw [hnone]
    rfl
  · have hemit : stored (progressTick (tickEmit turn s1)) = stored s1 :=
      stored_congr (by simp) (by simp)
    rw [hemit]
    exact (tickAdvance_effect ha).stored_eq hrun

/-! ### The other transactions -/

theorem issuePush_fifo {r : PushReq} {s t : State} (h : issuePush r s = .next t) : t.fifo = s.fifo := by
  obtain ⟨-, ⟨-, rfl⟩ | ⟨-, -, rfl⟩ | ⟨-, -, rfl⟩⟩ := issuePush_cases h <;> rfl

theorem configWrite_fifo {off : Byte} {r : Reg} {s t : State} (h : configWrite off r s = .next t) :
    t.fifo = s.fifo := by
  obtain ⟨-, rfl⟩ | ⟨-, rfl⟩ := configWrite_cases h <;> rfl

theorem execWrCmdStart_fifo {s t : State} (h : execWrCmdStart s = .next t) : t.fifo = s.fifo := by
  unfold execWrCmdStart at h
  split_ifs at h <;> cases h <;> rfl

theorem execWrCmdReserved_fifo {d : Word} {s t : State} (h : execWrCmdReserved d s = .next t) :
    t.fifo = s.fifo := by
  unfold execWrCmdReserved at h
  split_ifs at h
  cases h
  rfl

theorem execWrInvalid_fifo {off : Byte} {d : Word} {s t : State} (h : execWrInvalid off d s = .next t) :
    t.fifo = s.fifo := by
  unfold execWrInvalid at h
  split at h <;> cases h
  rfl

theorem execRdInvalid_fifo {off : Byte} {s t : State} (h : execRdInvalid off s = .next t) :
    t.fifo = s.fifo := by
  unfold execRdInvalid at h
  split at h <;> cases h
  rfl

/-- Only TICK, STOP and an OPEN that is not refused touch the channel (20_memory.md rules R54, R56). -/
theorem exec_fifo {i : Instr} {s t : State} (h : exec i s = .next t) (htick : i ≠ .tick)
    (hstop : i ≠ .wrCmdStop) (hopen : i = .wrCmdOpen → s.syn.state = .running) : t.fifo = s.fifo := by
  cases i with
  | tick => exact absurd rfl htick
  | wrCmdStop => exact absurd rfl hstop
  | wrCmdOpen =>
    have hrefused : exec .wrCmdOpen s = .next (raiseCmdErr .openRunning s) := if_pos (hopen rfl)
    cases hrefused.symm.trans h
    rfl
  | wrCmdStart => exact execWrCmdStart_fifo h
  | wrCmdReserved d => exact execWrCmdReserved_fifo h
  | wrInvalid off d => exact execWrInvalid_fifo (d := d) h
  | rdInvalid off => exact execRdInvalid_fifo h
  | wrConfig | wrSpb | wrPhaseInc | wrBlock => exact configWrite_fifo h
  | push | pushLast => exact issuePush_fifo h
  | _ =>
    cases h
    rfl

end Sys2Proof.Machine
end

section
/-! The statements of 20_memory.md. -/

namespace Sys2Proof.Machine

/-! ### The step and the transaction presented -/

theorem step_txn {s s1 : State} {x : Txn} {i : Instr} (hn : nextEvent s = some (.txn x, s1))
    (hi : decode x = .ok i) : step s = exec i s1 := by
  simp [step, hn, hi]

/-- Settles O47: the presented transaction is enabled, so it is the next event. -/
theorem stepRunsPresentedTransaction : Obligations.StepRunsPresentedTransaction := by
  have hhead : ∀ (s : State) (t : Txn) (rest : List Event) (i : Instr), s.inbox = .txn t :: rest →
      decode t = .ok i → (isPushTxn t = true → s.prd.pending = none) →
      step s = exec i { s with inbox := rest } := by
    intro s t rest i hin hi hpush
    have henabled : eventEnabled s (.txn t) = true := by
      cases hp : isPushTxn t with
      | false => simp [eventEnabled, hp]
      | true => simp [eventEnabled, hpush hp]
    exact step_txn (nextEvent_head hin henabled) hi
  refine ⟨hhead, fun s nbits w i hi hnone => ?_⟩
  have hdecode : decode (txnOfBits nbits w) = .ok i := by
    unfold decodeTableWord at hi
    split at hi
    · next j hj => exact hj.trans (congrArg _ (Option.some.inj hi))
    · cases hi
  exact hhead (s.withFetchWord nbits w) _ s.inbox i rfl hdecode fun _ => hnone

/-- Settles O32. -/
theorem refillMovesOldestBytes : Obligations.RefillMovesOldestBytes := by
  intro s hi
  obtain ⟨-, -, -, hwf, -⟩ := hi.syn
  refine ⟨stored_refill s, fun k hk => ?_, fun k hk => ?_⟩
  · rw [read_lbuf_refill hwf, if_pos hk]
  · rw [read_lbuf_refill hwf, if_neg (Nat.not_lt.mpr hk)]

/-! ### What the next step accepts, takes and ends -/

theorem acceptedBy_perform {s s1 : State} {r : PushReq} (hn : nextEvent s = some (.perform, s1))
    (hr : s.prd.pending = some r) : acceptedBy s = if proto r s then [] else r.data.take s.freeRun := by
  simp [acceptedBy, hn, hr]

theorem acceptedBy_txn {s s1 : State} {x : Txn} (hn : nextEvent s = some (.txn x, s1)) :
    acceptedBy s = [] := by
  simp [acceptedBy, hn]

theorem takenBy_perform {s s1 : State} (hn : nextEvent s = some (.perform, s1)) : takenBy s = [] := by
  simp [takenBy, hn]

theorem takenBy_tick {s s1 : State} {x : Txn} (hn : nextEvent s = some (.txn x, s1))
    (hi : decode x = .ok .tick) : takenBy s = tickTakes s := by
  simp [takenBy, hn, hi, tickTakes]

theorem takenBy_not_tick {s s1 : State} {x : Txn} {i : Instr} (hn : nextEvent s = some (.txn x, s1))
    (hi : decode x = .ok i) (htick : i ≠ .tick) : takenBy s = [] := by
  simp only [takenBy, hn, hi]
  split
  · next heq => exact absurd (Except.ok.inj heq) htick
  · rfl

theorem endsSession_reset {s s1 : State} (hn : nextEvent s = some (.reset, s1)) : endsSession s = true := by
  simp [endsSession, hn]

/-- A transaction inside a session is no STOP, and an OPEN only if it is refused. -/
theorem not_endsSession_txn {s s1 : State} {x : Txn} {i : Instr} (hn : nextEvent s = some (.txn x, s1))
    (hi : decode x = .ok i) (hs : endsSession s = false) :
    i ≠ .wrCmdStop ∧ (i = .wrCmdOpen → s.syn.state = .running) := by
  constructor
  · rintro rfl
    simp [endsSession, hn, hi] at hs
  · rintro rfl
    simpa [endsSession, hn, hi] using hs

/-! ### Conservation -/

/-- A perform step appends the accepted portion to the stream. -/
theorem perform_stored {s s1 : State} (hi : Inv s) (hn : nextEvent s = some (.perform, s1)) :
    stored (perform s1) = stored s ++ acceptedBy s := by
  obtain ⟨henabled, rest, -, rfl⟩ := nextEvent_some hn
  obtain ⟨-, -, hwf, -⟩ := hi.fifo
  obtain ⟨hdisabled, -⟩ | ⟨-, r, hr, -, hq⟩ := perform_cases { s with inbox := rest }
  · exact absurd (henabled.symm.trans hdisabled) (by simp)
  · rw [hq, acceptedBy_perform hn hr]
    exact stored_performReq (s := { s with inbox := rest, prd := { pending := none } }) hwf r

/-- A transaction inside a session takes its bytes off the front of the stream. -/
theorem exec_stored {s s1 t : State} {x : Txn} {i : Instr} (hn : nextEvent s = some (.txn x, s1))
    (hi : decode x = .ok i) (hs : endsSession s = false) (hx : exec i s1 = .next t) :
    stored s = takenBy s ++ stored t := by
  obtain ⟨hstop, hopen⟩ := not_endsSession_txn hn hi hs
  obtain ⟨-, rest, -, rfl⟩ := nextEvent_some hn
  by_cases htick : i = .tick
  · subst htick
    rw [takenBy_tick hn hi]
    exact execTick_stored (s := { s with inbox := rest }) hx
  · rw [takenBy_not_tick hn hi htick]
    exact (stored_congr (exec_fifo hx htick hstop hopen) (exec_params hx)).symm

/-- One step inside a session loses no byte and keeps the order (20_memory.md rule R61). -/
theorem step_conserves {s t : State} (hi : Inv s) (hs : endsSession s = false) (h : step s = .next t) :
    stored s ++ acceptedBy s = takenBy s ++ stored t := by
  obtain ⟨hn, rfl⟩ | ⟨s1, hn, rfl⟩ | ⟨s1, hn, rfl⟩ | ⟨x, s1, i, hn, hd, hx⟩ := step_cases h
  · simp [acceptedBy, takenBy, hn]
  · rw [takenBy_perform hn, perform_stored hi hn, List.nil_append]
  · exact absurd ((endsSession_reset hn).symm.trans hs) (by simp)
  · rw [acceptedBy_txn hn, List.append_nil, exec_stored hn hd hs hx]

/-- What a longer run inside a session is: a first step inside it, and a run from the state it leaves. -/
theorem sessionRun_succ {n : Nat} {s u : State} {accepted taken : List Byte}
    (h : sessionRun (n + 1) s = some (accepted, taken, u)) :
    endsSession s = false ∧ ∃ t a c, step s = .next t ∧ sessionRun n t = some (a, c, u) ∧
      accepted = acceptedBy s ++ a ∧ taken = takenBy s ++ c := by
  simp only [sessionRun] at h
  split_ifs at h with hs
  split at h
  · next t ht =>
    split at h
    · next a c v hv =>
      cases h
      exact ⟨by simpa using hs, t, a, c, ht, hv, rfl, rfl⟩
    · cases h
  · cases h
  · cases h

/-- Settles O55, by induction on the number of steps: each conserves the stream (`step_conserves`) and
keeps the invariant (`inv_step`). -/
theorem channelDeliversInOrder : Obligations.ChannelDeliversInOrder := by
  intro n
  induction n with
  | zero =>
    intro s t accepted taken _ h
    cases h
    exact List.append_nil _
  | succ n ih =>
    intro s u accepted taken hi h
    obtain ⟨hs, t, a, c, ht, hrun, rfl, rfl⟩ := sessionRun_succ h
    have hrest : stored t ++ a = c ++ stored u := ih t u a c (inv_step hi ht) hrun
    calc stored s ++ (acceptedBy s ++ a)
        = (stored s ++ acceptedBy s) ++ a := (List.append_assoc _ _ _).symm
      _ = takenBy s ++ (stored t ++ a) := by rw [step_conserves hi hs ht, List.append_assoc]
      _ = (takenBy s ++ c) ++ stored u := by rw [hrest, List.append_assoc]

end Sys2Proof.Machine
end

section
/-! SUPPORT. The fields of a descriptor and of a result word as digits of one number (30_encoding.md
rules R71 to R73, R76, R77): both directions of the encoding are then arithmetic. -/

namespace Sys2Proof

theorem toNat_append_eq_add {m n : Nat} (x : BitVec m) (y : BitVec n) :
    (x ++ y).toNat = x.toNat * 2 ^ n + y.toNat := by
  rw [BitVec.toNat_append, ← Nat.shiftLeft_add_eq_or_of_lt y.isLt, Nat.shiftLeft_eq]

theorem getLsbD_toNat {w : Nat} (x : BitVec w) (n : Nat) : (x.getLsbD n).toNat = x.toNat / 2 ^ n % 2 := by
  rw [BitVec.getLsbD, Nat.toNat_testBit]

theorem bool_eq_of_toNat_eq : ∀ {a b : Bool}, a.toNat = b.toNat → a = b := by decide

/-! ### The fields of a descriptor -/

theorem descClass_toNat (desc : Word) : (descClass desc).toNat = desc.toNat / 2 ^ 28 := by
  have hlt : desc.toNat < 2 ^ 32 := desc.isLt
  rw [descClass, BitVec.extractLsb'_toNat, Nat.shiftRight_eq_div_pow]
  omega

theorem descOff_toNat (desc : Word) : (descOff desc).toNat = desc.toNat % 2 ^ 8 :=
  BitVec.extractLsb'_toNat 0 8 desc

theorem descAccessMbz_toNat (desc : Word) : (descAccessMbz desc).toNat = desc.toNat / 2 ^ 8 % 2 ^ 20 := by
  rw [descAccessMbz, BitVec.extractLsb'_toNat, Nat.shiftRight_eq_div_pow]

theorem descPushMbz_toNat (desc : Word) : (descPushMbz desc).toNat = desc.toNat / 2 ^ 21 % 2 ^ 7 := by
  rw [descPushMbz, BitVec.extractLsb'_toNat, Nat.shiftRight_eq_div_pow]

theorem descTickMbz_toNat (desc : Word) : (descTickMbz desc).toNat = desc.toNat % 2 ^ 28 :=
  BitVec.extractLsb'_toNat 0 28 desc

theorem descTail_toNat (desc : Word) : (descTail desc).toNat = desc.toNat / 2 ^ 18 % 2 ^ 3 := by
  rw [descTail, BitVec.extractLsb'_toNat, Nat.shiftRight_eq_div_pow]

theorem descErr_toNat (desc : Word) : (descErr desc).toNat = desc.toNat / 2 ^ 17 % 2 :=
  getLsbD_toNat desc 17

theorem descLast_toNat (desc : Word) : (descLast desc).toNat = desc.toNat / 2 ^ 16 % 2 :=
  getLsbD_toNat desc 16

theorem descLen_toNat (desc : Word) : (descLen desc).toNat = desc.toNat % 2 ^ 16 :=
  BitVec.extractLsb'_toNat 0 16 desc

theorem descClass_eq_iff {desc : Word} {c : BitVec 4} :
    descClass desc = c ↔ desc.toNat / 2 ^ 28 = c.toNat := by
  rw [← BitVec.toNat_inj, descClass_toNat]

theorem descAccessMbz_eq_zero_iff {desc : Word} :
    descAccessMbz desc = 0#20 ↔ desc.toNat / 2 ^ 8 % 2 ^ 20 = 0 := by
  rw [← BitVec.toNat_inj, descAccessMbz_toNat]
  rfl

theorem descPushMbz_eq_zero_iff {desc : Word} :
    descPushMbz desc = 0#7 ↔ desc.toNat / 2 ^ 21 % 2 ^ 7 = 0 := by
  rw [← BitVec.toNat_inj, descPushMbz_toNat]
  rfl

theorem descTickMbz_eq_zero_iff {desc : Word} : descTickMbz desc = 0#28 ↔ desc.toNat % 2 ^ 28 = 0 := by
  rw [← BitVec.toNat_inj, descTickMbz_toNat]
  rfl

/-! ### The encoder's descriptors -/

/-- The common shape of a WR and an RD descriptor (30_encoding.md rule R71). -/
theorem accessWord_toNat (c : BitVec 4) (off : Byte) :
    (c ++ 0#20 ++ off : Word).toNat = c.toNat * 2 ^ 28 + off.toNat :=
  calc (c ++ 0#20 ++ off : Word).toNat = (c ++ 0#20).toNat * 2 ^ 8 + off.toNat := toNat_append_eq_add _ _
    _ = (c.toNat * 2 ^ 20 + 0) * 2 ^ 8 + off.toNat := by rw [toNat_append_eq_add]; rfl
    _ = c.toNat * 2 ^ 28 + off.toNat := by omega

theorem encodeWr_desc_toNat (off : Byte) (d : Word) :
    (encodeWr off d).desc.toNat = 2 ^ 28 + off.toNat := accessWord_toNat 1#4 off

theorem encodeRd_desc_toNat (off : Byte) : (encodeRd off).desc.toNat = 2 * 2 ^ 28 + off.toNat :=
  accessWord_toNat 2#4 off

theorem access_fields {desc : Word} {c : BitVec 4} {off : Byte}
    (hdesc : desc.toNat = c.toNat * 2 ^ 28 + off.toNat) :
    descClass desc = c ∧ descAccessMbz desc = 0#20 ∧ descOff desc = off := by
  have hoff := off.isLt
  refine ⟨descClass_eq_iff.mpr ?_, descAccessMbz_eq_zero_iff.mpr ?_, BitVec.eq_of_toNat_eq ?_⟩
  · omega
  · omega
  · rw [descOff_toNat]
    omega

/-- An access descriptor is its CLASS and its OFF. -/
theorem accessWord_of_fields {desc : Word} (hmbz : descAccessMbz desc = 0#20) :
    descClass desc ++ 0#20 ++ descOff desc = desc := by
  have hdigit := descAccessMbz_eq_zero_iff.mp hmbz
  apply BitVec.eq_of_toNat_eq
  rw [accessWord_toNat, descClass_toNat, descOff_toNat]
  omega

theorem encodePush_desc_toNat (last : Bool) (tail : BitVec 3) (err : Bool) (data : List Byte) :
    (encodePush last tail err data).desc.toNat =
      3 * 2 ^ 28 + tail.toNat * 2 ^ 18 + err.toNat * 2 ^ 17 + last.toNat * 2 ^ 16 + data.length % 2 ^ 16 :=
  calc (encodePush last tail err data).desc.toNat
    _ = (3#4 ++ 0#7 ++ tail ++ BitVec.ofBool err ++ BitVec.ofBool last).toNat * 2 ^ 16
          + data.length % 2 ^ 16 := toNat_append_eq_add _ _
    _ = ((((3 * 2 ^ 7 + 0) * 2 ^ 3 + tail.toNat) * 2 ^ 1 + err.toNat) * 2 ^ 1 + last.toNat) * 2 ^ 16
          + data.length % 2 ^ 16 := by
        rw [toNat_append_eq_add, toNat_append_eq_add, toNat_append_eq_add, BitVec.toNat_ofBool,
          BitVec.toNat_ofBool]
        rfl
    _ = _ := by omega

/-! ### Result words -/

theorem responseWord_accept_toNat (n : BitVec 16) : (Machine.responseWord (.accept n)).toNat = n.toNat :=
  (toNat_append_eq_add (0#2 ++ 0#14) n).trans (Nat.zero_add _)

theorem sampleWord_toNat (x : Machine.Sample) :
    (Machine.sampleWord x).toNat = x.active.toNat * 2 ^ 16 + x.q.toNat * 2 ^ 8 + x.i.toNat :=
  calc (Machine.sampleWord x).toNat
    _ = (0#15 ++ BitVec.ofBool x.active ++ x.q).toNat * 2 ^ 8 + x.i.toNat := toNat_append_eq_add _ _
    _ = ((0 * 2 ^ 1 + x.active.toNat) * 2 ^ 8 + x.q.toNat) * 2 ^ 8 + x.i.toNat := by
        rw [toNat_append_eq_add, toNat_append_eq_add, BitVec.toNat_ofBool]
        rfl
    _ = _ := by omega

end Sys2Proof
end

section
/-! SUPPORT. The rows that OFF and DATA select, and the decoder on the encoder's words, format by format
(30_encoding.md rules R78, R79). -/

namespace Sys2Proof

/-! ### Selectors -/

/-- The offsets of the mapped registers (20_memory.md rule R51). -/
def mappedOffsets : List Byte :=
  [0x00#8, 0x04#8, 0x08#8, 0x0C#8, 0x10#8, 0x14#8, 0x18#8, 0x1C#8, 0x20#8, 0x24#8, 0x28#8, 0x2C#8]

/-- Of the 256 offsets, the invalid ones are those that no register has. -/
theorem offsetInvalid_iff : ∀ off : Byte, offsetInvalid off = true ↔ off ∉ mappedOffsets := by decide

theorem offsetInvalid_or_mapped (off : Byte) : offsetInvalid off = true ∨ off ∈ mappedOffsets := by
  rw [offsetInvalid_iff]
  exact (em _).symm

theorem commandReserved_iff (d : Word) : commandReserved d = true ↔ 4 ≤ d.toNat := by
  have hlt : d.toNat < 2 ^ 32 := d.isLt
  have hhigh : (d.extractLsb' 3 29).toNat = d.toNat / 2 ^ 3 := by
    rw [BitVec.extractLsb'_toNat, Nat.shiftRight_eq_div_pow]
    omega
  have hlow : (d.extractLsb' 0 3).toNat = d.toNat % 2 ^ 3 := BitVec.extractLsb'_toNat 0 3 d
  simp only [commandReserved, Bool.or_eq_true, bne_iff_ne, ne_eq, ← BitVec.toNat_inj, decide_eq_true_eq,
    BitVec.le_def, hhigh, hlow, BitVec.toNat_ofNat]
  omega

theorem commandReserved_or_command (d : Word) :
    commandReserved d = true ∨ d = 0#32 ∨ d = 1#32 ∨ d = 2#32 ∨ d = 3#32 := by
  simp only [commandReserved_iff, ← BitVec.toNat_inj, BitVec.toNat_ofNat]
  omega

/-! ### The selected row -/

theorem decodeCommand_of_reserved {d : Word} (h : commandReserved d = true) :
    decodeCommand d = .wrCmdReserved d := if_pos h

theorem decodeWrite_of_invalid {off : Byte} (h : offsetInvalid off = true) (d : Word) :
    decodeWrite off d = .wrInvalid off d := by
  simp only [offsetInvalid_iff, mappedOffsets, List.mem_cons, List.not_mem_nil, not_or] at h
  simp [decodeWrite, h]

theorem decodeRead_of_invalid {off : Byte} (h : offsetInvalid off = true) :
    decodeRead off = .rdInvalid off := by
  simp only [offsetInvalid_iff, mappedOffsets, List.mem_cons, List.not_mem_nil, not_or] at h
  simp [decodeRead, h]

/-- The CMD row that DATA selects is well formed and keeps every bit of DATA. -/
theorem decodeCommand_wf_encode (d : Word) :
    (decodeCommand d).wf = true ∧ encode (decodeCommand d) = encodeWr 0x00#8 d := by
  obtain hres | rfl | rfl | rfl | rfl := commandReserved_or_command d
  · rw [decodeCommand_of_reserved hres]
    exact ⟨hres, rfl⟩
  all_goals exact ⟨rfl, rfl⟩

/-- The WR row that OFF selects is well formed and keeps OFF and DATA. -/
theorem decodeWrite_wf_encode (off : Byte) (d : Word) :
    (decodeWrite off d).wf = true ∧ encode (decodeWrite off d) = encodeWr off d := by
  obtain hinv | hmem := offsetInvalid_or_mapped off
  · rw [decodeWrite_of_invalid hinv]
    exact ⟨hinv, rfl⟩
  · simp only [mappedOffsets, List.mem_cons, List.not_mem_nil, or_false] at hmem
    obtain rfl | hmem := hmem
    · exact decodeCommand_wf_encode d
    · obtain rfl | rfl | rfl | rfl | rfl | rfl | rfl | rfl | rfl | rfl | rfl := hmem
      all_goals exact ⟨rfl, rfl⟩

/-- The RD row that OFF selects is well formed and keeps OFF. -/
theorem decodeRead_wf_encode (off : Byte) :
    (decodeRead off).wf = true ∧ encode (decodeRead off) = encodeRd off := by
  obtain hinv | hmem := offsetInvalid_or_mapped off
  · rw [decodeRead_of_invalid hinv]
    exact ⟨hinv, rfl⟩
  · simp only [mappedOffsets, List.mem_cons, List.not_mem_nil, or_false] at hmem
    obtain rfl | rfl | rfl | rfl | rfl | rfl | rfl | rfl | rfl | rfl | rfl | rfl := hmem
    all_goals exact ⟨rfl, rfl⟩

/-! ### The format that CLASS selects -/

theorem decode_eq_decodeWrFormat {t : Txn} (h : descClass t.desc = 1#4) : decode t = decodeWrFormat t := by
  simp [decode, h]

theorem decode_eq_decodeRdFormat {t : Txn} (h : descClass t.desc = 2#4) : decode t = decodeRdFormat t := by
  simp [decode, h]

theorem decode_eq_decodePushFormat {t : Txn} (h : descClass t.desc = 3#4) :
    decode t = decodePushFormat t := by
  simp [decode, h]

theorem decode_eq_decodeTickFormat {t : Txn} (h : descClass t.desc = 4#4) :
    decode t = decodeTickFormat t := by
  simp [decode, h]

/-! ### The decoder on the encoder's words -/

theorem decode_encodeWr (off : Byte) (d : Word) : decode (encodeWr off d) = .ok (decodeWrite off d) := by
  obtain ⟨hclass, hmbz, hoff⟩ := access_fields (c := 1#4) (encodeWr_desc_toNat off d)
  rw [decode_eq_decodeWrFormat hclass, decodeWrFormat, if_neg (not_not.mpr hmbz), hoff]
  rfl

theorem decode_encodeRd (off : Byte) : decode (encodeRd off) = .ok (decodeRead off) := by
  obtain ⟨hclass, hmbz, hoff⟩ := access_fields (c := 2#4) (encodeRd_desc_toNat off)
  rw [decode_eq_decodeRdFormat hclass, decodeRdFormat, if_neg (not_not.mpr hmbz), hoff]
  rfl

/-- A push whose length LEN can hold decodes to the row that LAST selects. -/
theorem decode_encodePush (last : Bool) (tail : BitVec 3) (err : Bool) {data : List Byte}
    (hlen : pushLengthOk data = true) :
    decode (encodePush last tail err data) =
      .ok (if last then .pushLast tail err data else .push tail err data) := by
  have hlt : data.length < 2 ^ 16 := by simpa [pushLengthOk] using hlen
  have htail := tail.isLt
  have herr := err.toNat_lt
  have hlast := last.toNat_lt
  have hdesc := encodePush_desc_toNat last tail err data
  have hclass : descClass (encodePush last tail err data).desc = 3#4 :=
    descClass_eq_iff.mpr (by rw [hdesc, BitVec.toNat_ofNat]; omega)
  have hmbz : descPushMbz (encodePush last tail err data).desc = 0#7 :=
    descPushMbz_eq_zero_iff.mpr (by rw [hdesc]; omega)
  have hT : descTail (encodePush last tail err data).desc = tail :=
    BitVec.eq_of_toNat_eq (by rw [descTail_toNat, hdesc]; omega)
  have hE : descErr (encodePush last tail err data).desc = err :=
    bool_eq_of_toNat_eq (by rw [descErr_toNat, hdesc]; omega)
  have hL : descLast (encodePush last tail err data).desc = last :=
    bool_eq_of_toNat_eq (by rw [descLast_toNat, hdesc]; omega)
  have hN : data.length = (descLen (encodePush last tail err data).desc).toNat := by
    rw [descLen_toNat, hdesc]
    omega
  rw [decode_eq_decodePushFormat hclass, decodePushFormat, if_neg (not_not.mpr hmbz), hT, hE, hL]
  show (if data.length ≠ _ then _ else _) = _
  rw [if_neg (not_not.mpr hN)]
  cases last <;> rfl

/-! ### The encoder on the words that decode -/

theorem encodeWr_descOff {t : Txn} {d : Word} (hclass : descClass t.desc = 1#4)
    (hmbz : descAccessMbz t.desc = 0#20) (hop : t.operand = .word d) : encodeWr (descOff t.desc) d = t := by
  have hdesc := accessWord_of_fields hmbz
  rw [hclass] at hdesc
  exact congrArg₂ Txn.mk hdesc hop.symm

theorem encodeRd_descOff {t : Txn} (hclass : descClass t.desc = 2#4)
    (hmbz : descAccessMbz t.desc = 0#20) (hop : t.operand = .none) : encodeRd (descOff t.desc) = t := by
  have hdesc := accessWord_of_fields hmbz
  rw [hclass] at hdesc
  exact congrArg₂ Txn.mk hdesc hop.symm

theorem encodePush_descFields {t : Txn} {data : List Byte} (hclass : descClass t.desc = 3#4)
    (hmbz : descPushMbz t.desc = 0#7) (hop : t.operand = .bytes data)
    (hlen : data.length = (descLen t.desc).toNat) :
    encodePush (descLast t.desc) (descTail t.desc) (descErr t.desc) data = t := by
  have hdesc : (encodePush (descLast t.desc) (descTail t.desc) (descErr t.desc) data).desc = t.desc :=
    BitVec.eq_of_toNat_eq (by
      have hC : t.desc.toNat / 2 ^ 28 = 3 := descClass_eq_iff.mp hclass
      have hM := descPushMbz_eq_zero_iff.mp hmbz
      rw [encodePush_desc_toNat, descTail_toNat, descErr_toNat, descLast_toNat, hlen, descLen_toNat]
      omega)
  exact congrArg₂ Txn.mk hdesc hop.symm

theorem encode_tick_of_fields {t : Txn} (hclass : descClass t.desc = 4#4)
    (hmbz : descTickMbz t.desc = 0#28) (hop : t.operand = .none) : encode .tick = t := by
  have hdesc : 0x40000000#32 = t.desc := BitVec.eq_of_toNat_eq (by
    have hC : t.desc.toNat / 2 ^ 28 = 4 := descClass_eq_iff.mp hclass
    have hM := descTickMbz_eq_zero_iff.mp hmbz
    rw [BitVec.toNat_ofNat]
    omega)
  exact congrArg₂ Txn.mk hdesc hop.symm

/-! ### What the decoder rejects (30_encoding.md rule R78) -/

theorem decode_reservedClass {t : Txn} (h : t.desc.toNat / 2 ^ 28 = 0 ∨ 5 ≤ t.desc.toNat / 2 ^ 28) :
    decode t = .error .reservedClass := by
  have hne : ∀ c : BitVec 4, 1 ≤ c.toNat → c.toNat ≤ 4 → descClass t.desc ≠ c := by
    intro c h1 h4 hc
    have := descClass_eq_iff.mp hc
    omega
  rw [decode, if_neg (hne 1#4 (by decide) (by decide)), if_neg (hne 2#4 (by decide) (by decide)),
    if_neg (hne 3#4 (by decide) (by decide)), if_neg (hne 4#4 (by decide) (by decide))]

theorem decode_wr_mbzNonzero {t : Txn} (hclass : descClass t.desc = 1#4)
    (hmbz : descAccessMbz t.desc ≠ 0#20) : decode t = .error .mbzNonzero := by
  rw [decode_eq_decodeWrFormat hclass, decodeWrFormat, if_pos hmbz]

theorem decode_rd_mbzNonzero {t : Txn} (hclass : descClass t.desc = 2#4)
    (hmbz : descAccessMbz t.desc ≠ 0#20) : decode t = .error .mbzNonzero := by
  rw [decode_eq_decodeRdFormat hclass, decodeRdFormat, if_pos hmbz]

theorem decode_push_mbzNonzero {t : Txn} (hclass : descClass t.desc = 3#4)
    (hmbz : descPushMbz t.desc ≠ 0#7) : decode t = .error .mbzNonzero := by
  rw [decode_eq_decodePushFormat hclass, decodePushFormat, if_pos hmbz]

theorem decode_tick_mbzNonzero {t : Txn} (hclass : descClass t.desc = 4#4)
    (hmbz : descTickMbz t.desc ≠ 0#28) : decode t = .error .mbzNonzero := by
  rw [decode_eq_decodeTickFormat hclass, decodeTickFormat, if_pos hmbz]

theorem decode_push_lengthMismatch {t : Txn} {bs : List Byte} (hclass : descClass t.desc = 3#4)
    (hmbz : descPushMbz t.desc = 0#7) (hop : t.operand = .bytes bs)
    (hlen : bs.length ≠ (descLen t.desc).toNat) : decode t = .error .lengthMismatch := by
  simp [decode_eq_decodePushFormat hclass, decodePushFormat, hmbz, hop, hlen]

end Sys2Proof
end

section
/-! The statements of 30_encoding.md. -/

namespace Sys2Proof.Machine

/-- Settles O1, row by row: the formats' round trips (`decode_encodeWr`, `decode_encodeRd`,
`decode_encodePush`), then the row that OFF, DATA or LAST selects. -/
theorem decodeOfEncode : Obligations.DecodeOfEncode := by
  intro i hwf
  cases i with
  | wrCmdReserved d => exact (decode_encodeWr _ d).trans (congrArg _ (decodeCommand_of_reserved hwf))
  | wrInvalid off d => exact (decode_encodeWr off d).trans (congrArg _ (decodeWrite_of_invalid hwf d))
  | rdInvalid off => exact (decode_encodeRd off).trans (congrArg _ (decodeRead_of_invalid hwf))
  | push tail err data => exact decode_encodePush false tail err hwf
  | pushLast tail err data => exact decode_encodePush true tail err hwf
  | tick => rfl
  | wrCmdNop | wrCmdOpen | wrCmdStart | wrCmdStop => exact decode_encodeWr _ _
  | wrStatus d | wrIrqEn d | wrConfig d | wrSpb d | wrPhaseInc d | wrBlock d | wrProgress d
  | wrProgSnap d | wrFifoLevel d | wrParams d | wrErrInfo d => exact decode_encodeWr _ d
  | rdCmd | rdStatus | rdIrqEn | rdConfig | rdSpb | rdPhaseInc | rdBlock | rdProgress | rdProgSnap
  | rdFifoLevel | rdParams | rdErrInfo => exact decode_encodeRd _

/-- Settles O2, format by format: the row is well formed and keeps its fields, and the fields of a
format make up the whole descriptor. -/
theorem decodedIsWellFormedAndReencodes : Obligations.DecodedIsWellFormedAndReencodes := by
  intro t i h
  obtain ⟨hclass, h⟩ | ⟨hclass, h⟩ | ⟨hclass, h⟩ | ⟨hclass, h⟩ := decode_ok_cases h
  · obtain ⟨hmbz, d, hop, rfl⟩ := decodeWrFormat_ok h
    obtain ⟨hwf, henc⟩ := decodeWrite_wf_encode (descOff t.desc) d
    exact ⟨hwf, henc.trans (encodeWr_descOff hclass hmbz hop)⟩
  · obtain ⟨hmbz, hop, rfl⟩ := decodeRdFormat_ok h
    obtain ⟨hwf, henc⟩ := decodeRead_wf_encode (descOff t.desc)
    exact ⟨hwf, henc.trans (encodeRd_descOff hclass hmbz hop)⟩
  · obtain ⟨hmbz, bs, hop, hlen, rfl⟩ := decodePushFormat_ok h
    have hok : pushLengthOk bs = true := decide_eq_true (hlen.trans_lt (descLen t.desc).isLt)
    have henc := encodePush_descFields hclass hmbz hop hlen
    cases hlast : descLast t.desc with
    | false => exact ⟨hok, by rwa [hlast] at henc⟩
    | true => exact ⟨hok, by rwa [hlast] at henc⟩
  · obtain ⟨hmbz, hop, rfl⟩ := decodeTickFormat_ok h
    exact ⟨rfl, encode_tick_of_fields hclass hmbz hop⟩

/-- What spells no transaction is no push, so nothing holds it back: the step takes it and refuses it. -/
theorem step_refused_of_decode_error {s : State} {t : Txn} {rest : List Event} {why : Reject}
    (hin : s.inbox = .txn t :: rest) (h : decode t = .error why) :
    step s = .refused (.noTransaction why) := by
  have henabled : eventEnabled s (.txn t) = true := by simp [eventEnabled, isPushTxn, h]
  simp [step, nextEvent_head hin henabled, h]

/-- Settles O3, clause by clause of rule R78. -/
theorem reservedDescriptorsAreRefused : Obligations.ReservedDescriptorsAreRefused := by
  intro t s rest hin h
  suffices hdecode : ∃ why, decode t = .error why by
    obtain ⟨why, hwhy⟩ := hdecode
    exact ⟨why, hwhy, step_refused_of_decode_error hin hwhy⟩
  obtain hclass | ⟨hclass | hclass, hmbz⟩ | ⟨hclass, hmbz⟩ | ⟨hclass, hmbz⟩ |
    ⟨hclass, bs, hop, hlen⟩ := h
  · exact ⟨_, decode_reservedClass hclass⟩
  · exact ⟨_, decode_wr_mbzNonzero (descClass_eq_iff.mpr hclass) (mt descAccessMbz_eq_zero_iff.mp hmbz)⟩
  · exact ⟨_, decode_rd_mbzNonzero (descClass_eq_iff.mpr hclass) (mt descAccessMbz_eq_zero_iff.mp hmbz)⟩
  · exact ⟨_, decode_push_mbzNonzero (descClass_eq_iff.mpr hclass) (mt descPushMbz_eq_zero_iff.mp hmbz)⟩
  · exact ⟨_, decode_tick_mbzNonzero (descClass_eq_iff.mpr hclass) (mt descTickMbz_eq_zero_iff.mp hmbz)⟩
  · have hpush : descClass t.desc = 3#4 := descClass_eq_iff.mpr hclass
    by_cases hmbz : descPushMbz t.desc = 0#7
    · exact ⟨_, decode_push_lengthMismatch hpush hmbz hop (by rwa [descLen_toNat])⟩
    · exact ⟨_, decode_push_mbzNonzero hpush hmbz⟩

/-- Settles O4: each word is the encoder's, so `decodeOfEncode` decodes it. -/
theorem writtenWordsDecode : Obligations.WrittenWordsDecode :=
  ⟨decodeOfEncode .wrCmdStart rfl, decodeOfEncode (.wrCmdReserved 0x12#32) rfl,
    decodeOfEncode (.wrConfig 1#32) rfl, decodeOfEncode (.wrInvalid 0x31#8 5#32) rfl,
    decodeOfEncode .rdProgress rfl, decodeOfEncode (.rdInvalid 0x05#8) rfl,
    decodeOfEncode (.push 0#3 true [0x01#8]) rfl, decodeOfEncode (.pushLast 3#3 false [0xA0#8]) rfl,
    decodeOfEncode .tick rfl⟩

/-- Settles O43: the words' numbers are sums of their fields (`sampleWord_toNat`). -/
theorem resultWords : Obligations.ResultWords := by
  refine ⟨responseWord_accept_toNat, rfl, rfl, fun x => ?_⟩
  have hi := x.i.isLt
  have hq := x.q.isLt
  rw [sampleWord_toNat]
  refine ⟨by omega, by omega, ?_⟩
  cases x.active with
  | false => rw [Bool.toNat_false, if_neg Bool.false_ne_true]; omega
  | true => rw [Bool.toNat_true, if_pos rfl]; omega

end Sys2Proof.Machine
end

section
/-! SUPPORT. What the control port's shared pieces give, said once: the row that DATA of a CMD write
selects, the offset checks, the updates of OPEN and STOP as whole states, and the composed register
words, bit by bit or as numbers. -/

namespace Sys2Proof

/-! ### The command word -/

/-- The five rows of a CMD write by the DATA word alone (40_control_port.md rule R106). -/
theorem decodeCommand_eq_ite (d : Word) : decodeCommand d =
    if d = 0#32 then .wrCmdNop else if d = 1#32 then .wrCmdOpen else if d = 2#32 then .wrCmdStart
    else if d = 3#32 then .wrCmdStop else .wrCmdReserved d := by
  obtain hres | rfl | rfl | rfl | rfl := commandReserved_or_command d
  · have hge := (commandReserved_iff d).mp hres
    have hne {k : Word} (hk : k.toNat < 4) : d ≠ k := by
      rintro rfl
      omega
    rw [decodeCommand_of_reserved hres, if_neg (hne (by decide)), if_neg (hne (by decide)),
      if_neg (hne (by decide)), if_neg (hne (by decide))]
  all_goals rfl

end Sys2Proof

namespace Sys2Proof.Machine

/-! ### Offsets -/

/-- The two checks of an access on the offset's value, MISALIGNED first (40_control_port.md rule R92). -/
theorem offsetCheck_of_invalid {off : Byte} (h : off.toNat % 4 ≠ 0 ∨ 0x30 ≤ off.toNat) :
    offsetCheck off = some (if off.toNat % 4 ≠ 0 then .misaligned else .unmapped) := by
  have hlow : off.extractLsb' 0 2 ≠ 0#2 ↔ off.toNat % 4 ≠ 0 := by
    rw [ne_eq, ← BitVec.toNat_inj, BitVec.extractLsb'_toNat]
    rfl
  unfold offsetCheck
  by_cases hmis : off.toNat % 4 ≠ 0
  · rw [if_pos (hlow.mpr hmis), if_pos hmis]
  · have hhigh : 0x30#8 ≤ off := BitVec.le_def.mpr (h.resolve_left hmis)
    rw [if_neg (mt hlow.mp hmis), if_pos hhigh, if_neg hmis]

theorem accCode_offset (c : Prop) [Decidable c] :
    accCode (if c then .misaligned else .unmapped) = if c then 8#4 else 9#4 :=
  apply_ite accCode _ _ _

/-! ### Sessions -/

/-- What ends a session on the producer port, the frame included: TERM to a pending push. -/
theorem terminatePending_eq (s : State) : terminatePending s = { s with
    prd := { pending := none }
    trace := if s.prd.pending = none then s.trace else s.trace ++ [.response .term] } := by
  obtain ⟨params, fifo, ⟨pending⟩, syn, reg, inbox, trace⟩ := s
  cases pending with
  | none => rfl
  | some r => rfl

/-- The effect of an accepted OPEN as one state (40_control_port.md rule R108). -/
theorem openChannel_eq (s : State) : openChannel s = { s with
    fifo := { mem := [], rd := 0, count := 0, isOpen := true, eos := false, tail := 0#3 }
    prd := { pending := none }
    trace := if s.prd.pending = none then s.trace else s.trace ++ [.response .term] } := by
  rw [openChannel, terminatePending_eq]
  rfl

/-- The effect of STOP as one state (40_control_port.md rule R110). -/
theorem stopTransmission_eq (s : State) : stopTransmission s = { s with
    fifo := Fifo.initial
    prd := { pending := none }
    syn := Syn.initial
    trace := if s.prd.pending = none then s.trace else s.trace ++ [.response .term] } := by
  rw [stopTransmission, terminatePending_eq]
  rfl

/-! ### Configuration writes -/

/-- A configuration write always answers a next state; which one depends on RUNNING alone
(40_control_port.md rules R113 to R116). -/
theorem configWrite_eq_next (off : Byte) (r : Reg) (s : State) : configWrite off r s =
    .next (if s.syn.state = .running then raiseAccErr .cfgRunning off s else { s with reg := r }) :=
  (apply_ite Host.Outcome.next _ _ _).symm

/-! ### Register words, bit by bit -/

/-- The five implemented positions of IRQ_EN (10_state.md rule R27). -/
theorem getLsbD_irqEnWord (e : IrqEn) (n : Nat) : (irqEnWord e).getLsbD n =
    ((e.done && decide (n = 1)) || (e.prog && decide (n = 2)) || (e.rdErr && decide (n = 8)) ||
      (e.cmdErr && decide (n = 9)) || (e.accErr && decide (n = 10))) := by
  simp [irqEnWord, getLsbD_bitAt]

theorem getLsbD_irqEnWord_of_notMem (e : IrqEn) {n : Nat} (hn : n ∉ [1, 2, 8, 9, 10]) :
    (irqEnWord e).getLsbD n = false := by
  simp only [List.mem_cons, List.not_mem_nil, or_false, not_or] at hn
  simp [getLsbD_irqEnWord, hn]

/-- The mask 0x706 has the same five positions (40_control_port.md rule R112). -/
theorem getLsbD_irqEnMask {n : Nat} (h : n < 32) :
    (0x706#32).getLsbD n = decide (n ∈ [1, 2, 8, 9, 10]) := by
  revert n
  decide

/-- What IRQ_EN reads right after a write of `d` (40_control_port.md rules R95, R112). -/
theorem irqEnWord_irqEnOfData (d : Word) : irqEnWord (irqEnOfData d) = d &&& 0x706#32 := by
  apply BitVec.eq_of_getLsbD_eq
  intro n hn
  rw [BitVec.getLsbD_and, getLsbD_irqEnMask hn]
  by_cases hmem : n ∈ [1, 2, 8, 9, 10]
  · rw [decide_eq_true hmem, Bool.and_true, getLsbD_irqEnWord]
    simp only [List.mem_cons, List.not_mem_nil, or_false] at hmem
    obtain rfl | rfl | rfl | rfl | rfl := hmem <;> simp [irqEnOfData]
  · rw [decide_eq_false hmem, Bool.and_false, getLsbD_irqEnWord_of_notMem _ hmem]

theorem getLsbD_configWord_zero (s : State) : (configWord s).getLsbD 0 = s.reg.starvePolicy := by
  rw [configWord, getLsbD_bitAt]
  simp

theorem getLsbD_configWord_of_ne_zero (s : State) {n : Nat} (hn : n ≠ 0) :
    (configWord s).getLsbD n = false := by
  rw [configWord, getLsbD_bitAt]
  simp [hn]

/-- The thirteen positions of STATUS (10_state.md rule R28). -/
theorem getLsbD_statusWord (s : State) (n : Nat) : (statusWord s).getLsbD n =
    ((decide (s.syn.state = .running) && decide (n = 0)) || (s.reg.done && decide (n = 1)) ||
      (s.reg.prog && decide (n = 2)) || (s.syn.starved && decide (n = 3)) ||
      (decide (s.fifo.count = 0) && decide (n = 4)) ||
      (decide (s.fifo.count = 2 ^ s.params.fifoLog2) && decide (n = 5)) ||
      (held s && decide (n = 6)) || (s.fifo.eos && decide (n = 7)) || (s.reg.rdErr && decide (n = 8)) ||
      (s.reg.cmdErr && decide (n = 9)) || (s.reg.accErr && decide (n = 10)) ||
      (s.fifo.isOpen && decide (n = 11)) || (irq s && decide (n = 12))) := by
  unfold statusWord State.cap
  simp [getLsbD_bitAt]

theorem getLsbD_statusWord_of_ge (s : State) {n : Nat} (hn : 13 ≤ n) :
    (statusWord s).getLsbD n = false := by
  have hne {k : Nat} (hk : k < 13) : decide (n = k) = false := decide_eq_false (by omega)
  simp [getLsbD_statusWord, hne]

/-! ### Register words as numbers -/

/-- FIFO_LEVEL drops no bit of a legal count: bit 16 is there for a full channel of 65536 bytes
(40_control_port.md rule R102). -/
theorem fifoLevelWord_toNat {s : State} (hp : s.params.Legal)
    (hcount : s.fifo.count ≤ 2 ^ s.params.fifoLog2) : (fifoLevelWord s).toNat = s.fifo.count := by
  obtain ⟨-, hlog, -, -⟩ := hp
  have hcap : 2 ^ s.params.fifoLog2 ≤ 2 ^ 16 := Nat.pow_le_pow_right (by decide) hlog
  rw [fifoLevelWord, BitVec.toNat_ofNat]
  omega

/-- PARAMS as a sum of its fields (10_state.md rule R31). -/
theorem paramsWord_toNat {s : State} (hp : s.params.Legal) : (paramsWord s).toNat =
    32 * 2 ^ 24 + 8 * 2 ^ 16 + s.params.lbufBytes * 2 ^ 8 + s.params.fifoLog2 := by
  obtain ⟨-, hlog, -, hlbuf⟩ := hp
  simp only [paramsWord, toNat_append_eq_add, BitVec.toNat_ofNat, phaseBits, lutBits]
  omega

/-- ERR_INFO as a sum of its fields (10_state.md rule R30). -/
theorem errInfoWord_toNat (s : State) :
    (errInfoWord s).toNat = s.reg.errOff.toNat * 2 ^ 8 + s.reg.errCode.toNat := by
  simp only [errInfoWord, toNat_append_eq_add, BitVec.toNat_ofNat]
  omega

end Sys2Proof.Machine
end

section
/-! The statements of 40_control_port.md. -/

namespace Sys2Proof.Machine

/-! ### Commands -/

/-- Settles O5: NOP's meaning is the identity. -/
theorem nopLeavesEveryState : Obligations.NopLeavesEveryState := fun _ => rfl

/-- Settles O6: refused while RUNNING, else the state of `openChannel_eq`. -/
theorem openBeginsSession : Obligations.OpenBeginsSession := by
  intro s
  change execWrCmdOpen s = _
  rw [execWrCmdOpen, openChannel_eq, ← apply_ite Host.Outcome.next]
  rfl

/-- Settles O7: the model's chain of refusals is the rule's. -/
theorem startBeginsTransmission : Obligations.StartBeginsTransmission := by
  intro s
  change execWrCmdStart s = _
  rw [execWrCmdStart, ← apply_ite Host.Outcome.next, ← apply_ite Host.Outcome.next,
    ← apply_ite Host.Outcome.next]
  rfl

/-- Settles O8: STOP is `stopTransmission`, whatever the state. -/
theorem stopEndsSession : Obligations.StopEndsSession := fun s =>
  congrArg Host.Outcome.next (stopTransmission_eq s)

/-- Settles O9: the written descriptor is the encoder's for a CMD write, so `decode_encodeWr` leaves the
row that DATA selects. -/
theorem commandWordDecodeAndReserved : Obligations.CommandWordDecodeAndReserved :=
  ⟨fun d => (decode_encodeWr 0x00#8 d).trans (congrArg Except.ok (decodeCommand_eq_ite d)),
    fun d _ hge => if_pos ((commandReserved_iff d).mpr hge)⟩

/-! ### Register writes -/

/-- Settles O10: keeping a bit by `&& !` is the rule's choice per DATA bit. -/
theorem statusWriteClearsOnes : Obligations.StatusWriteClearsOnes := by
  intro d s
  have hclear (old bit : Bool) : (if bit then false else old) = (old && !bit) := by cases bit <;> simp
  simp only [hclear]
  rfl

/-- Settles O11: the read-back is `irqEnWord_irqEnOfData`. -/
theorem irqEnableWriteAndReadBack : Obligations.IrqEnableWriteAndReadBack := fun d _ =>
  ⟨_, rfl, rfl, irqEnWord_irqEnOfData d ▸ rfl⟩

/-- Settles O12: the four registers are four uses of `configWrite_eq_next`. -/
theorem configurationWrites : Obligations.ConfigurationWrites := fun _ _ =>
  ⟨configWrite_eq_next _ _ _, configWrite_eq_next _ _ _, configWrite_eq_next _ _ _,
    configWrite_eq_next _ _ _⟩

/-- Settles O13: the five writes are the one operation `raiseAccErr .roWrite`. -/
theorem readOnlyWritesRecordError : Obligations.ReadOnlyWritesRecordError := fun _ _ =>
  ⟨rfl, rfl, rfl, rfl, rfl⟩

/-- Settles O14: `offsetCheck_of_invalid` finds the cause, and the access raises its code. -/
theorem invalidOffsetsRecordError : Obligations.InvalidOffsetsRecordError := by
  intro off d s h
  have hcause := offsetCheck_of_invalid h
  rw [← accCode_offset]
  constructor
  · change execWrInvalid off d s = _
    rw [execWrInvalid, hcause]
    rfl
  · change execRdInvalid off s = _
    rw [execRdInvalid, hcause]
    rfl

/-! ### Register reads -/

/-- Settles O15: the six reads are the one operation `answerRead`. -/
theorem storedRegistersReadBack : Obligations.StoredRegistersReadBack := fun _ =>
  ⟨rfl, rfl, rfl, rfl, rfl, rfl⟩

/-- Settles O16: each position of `getLsbD_statusWord` picks its own flag. -/
theorem statusReadsBitByBit : Obligations.StatusReadsBitByBit := by
  intro s
  refine ⟨statusWord s, rfl, ?_, ?_, ?_, ?_, ?_, ?_, ?_, ?_, ?_, ?_, ?_, ?_, ?_,
    fun n hn => getLsbD_statusWord_of_ge s hn⟩
  all_goals
    rw [getLsbD_statusWord]
    simp

/-- Settles O17: each position of `getLsbD_irqEnWord` picks its own enable, and CONFIG has one flag. -/
theorem enableAndPolicyReadBitByBit : Obligations.EnableAndPolicyReadBitByBit := by
  intro s
  refine ⟨irqEnWord s.reg.irqEn, configWord s, rfl, ?_, ?_, ?_, ?_, ?_,
    fun n hn => getLsbD_irqEnWord_of_notMem _ hn, rfl, getLsbD_configWord_zero s,
    fun n hn => getLsbD_configWord_of_ne_zero s hn⟩
  all_goals
    rw [getLsbD_irqEnWord]
    simp

/-- Settles O18: the word is exact up to a full channel (`fifoLevelWord_toNat`). -/
theorem fifoLevelReadsCount : Obligations.FifoLevelReadsCount := fun s hp hcount =>
  ⟨fifoLevelWord s, fifoLevelWord_toNat hp hcount, rfl⟩

/-- Settles O19: the fields are the digits of `paramsWord_toNat`. -/
theorem paramsReadFields : Obligations.ParamsReadFields := by
  intro s hp
  have hword := paramsWord_toNat hp
  obtain ⟨-, hlog, -, hlbuf⟩ := hp
  refine ⟨paramsWord s, rfl, by omega, by omega, by omega, by omega, by omega, fun hvec => ?_⟩
  rw [paramsWord, hvec]
  rfl

/-- Settles O20: the fields are the digits of `errInfoWord_toNat`. -/
theorem errInfoReadsFields : Obligations.ErrInfoReadsFields := by
  intro s
  have hword := errInfoWord_toNat s
  have hcode := s.reg.errCode.isLt
  have hoff := s.reg.errOff.isLt
  exact ⟨errInfoWord s, rfl, by omega, by omega, by omega, by omega⟩

end Sys2Proof.Machine
end

section
/-! SUPPORT. The producer port: the protocol predicate and the hold as propositions, what a push issue and
a perform make of the state, and which event a step takes (41_producer_port.md rules R131 to R134). -/

namespace Sys2Proof.Machine

/-! ### The protocol predicate and the hold -/

theorem proto_iff (r : PushReq) (s : State) : proto r s = true ↔
    s.fifo.eos = true ∨ (r.last = false ∧ (r.tail ≠ 0#3 ∨ r.err = true)) ∨
      (r.last = true ∧ r.data.length = 0 ∧ r.tail ≠ 0#3) := by
  simp only [proto, Bool.or_eq_true, Bool.and_eq_true, Bool.not_eq_true', bne_iff_ne, beq_iff_eq, or_assoc,
    and_assoc]

/-- Of the state, the protocol predicate reads EOS alone (41_producer_port.md rule R132). -/
theorem proto_congr {s t : State} (heos : t.fifo.eos = s.fifo.eos) (r : PushReq) : proto r t = proto r s := by
  simp only [proto, heos]

theorem held_iff (s : State) : held s = true ↔ ∃ r, s.prd.pending = some r ∧ s.fifo.isOpen = true ∧
    0 < r.data.length ∧ proto r s = false ∧ s.fifo.count = s.cap := by
  unfold held
  cases hp : s.prd.pending with
  | none => simp
  | some r => simp [heldReq, and_assoc]

/-- A channel with room holds no push (41_producer_port.md rule R134). -/
theorem held_eq_false_of_room {s : State} (hroom : s.fifo.count < s.cap) : held s = false := by
  rw [← Bool.not_eq_true, held_iff]
  rintro ⟨_, -, -, -, -, hfull⟩
  omega

/-! ### Issue -/

/-- An issue with no push pending is answered TERM or becomes pending (41_producer_port.md rule R131). -/
theorem issuePush_of_none {r : PushReq} {s : State} (hlen : r.data.length < 65536)
    (hnone : s.prd.pending = none) : issuePush r s = .next (if s.fifo.isOpen = false
      then respond .term s else { s with prd := { pending := some r } }) := by
  simp [issuePush, pushLengthOk, hlen, hnone, apply_ite Host.Outcome.next]

/-- With a push pending an issue changes nothing (log entry 6). -/
theorem issuePush_of_pending {r q : PushReq} {s : State} (hlen : r.data.length < 65536)
    (hq : s.prd.pending = some q) : issuePush r s = .next s := by
  simp [issuePush, pushLengthOk, hlen, hq]

/-! ### Perform -/

theorem performEnabled_of_not_held {s : State} {r : PushReq} (hr : s.prd.pending = some r)
    (hheld : held s = false) : performEnabled s = true := by
  simp [performEnabled, hr, hheld]

theorem perform_of_not_held {s : State} {r : PushReq} (hr : s.prd.pending = some r) (hheld : held s = false) :
    perform s = performReq r { s with prd := { pending := none } } := by
  simp [perform, hr, hheld]

/-- The end of the producer's stream as one state: RD_ERR is set if ERR, else kept. -/
theorem endStream_eq (tail : BitVec 3) (err : Bool) (s : State) : endStream tail err s = { s with
    fifo := { s.fifo with eos := true, tail := tail }
    reg := if err = true then { s.reg with rdErr := true } else s.reg } := by
  cases err <;> simp [endStream]

theorem performReq_of_proto {r : PushReq} {s : State} (hproto : proto r s = true) :
    performReq r s = respond .proto s := if_pos hproto

/-- A request with no bytes can only end the stream (41_producer_port.md rule R133). -/
theorem performReq_of_empty {r : PushReq} {s : State} (hproto : proto r s = false)
    (hempty : r.data.length = 0) : performReq r s = respond (.accept 0#16) { s with
      fifo := if r.last = true then { s.fifo with eos := true, tail := 0#3 } else s.fifo
      reg := if r.last = true ∧ r.err = true then { s.reg with rdErr := true } else s.reg } := by
  have hq : performReq r s = respond (.accept 0#16) (if r.last then endStream 0#3 r.err s else s) := by
    simp [performReq, hproto, hempty]
  rw [hq, endStream_eq]
  cases r.last <;> simp

/-- A request with bytes stores what fits; a LAST one that fits whole ends the stream
(41_producer_port.md rule R133). -/
theorem performReq_of_bytes {r : PushReq} {s : State} (hproto : proto r s = false)
    (hbytes : r.data.length ≠ 0) :
    performReq r s = respond (.accept (BitVec.ofNat 16 (min r.data.length s.freeRun))) { s with
      fifo := { s.fifo with
        mem := s.fifo.mem.writeBytes s.wr (r.data.take s.freeRun)
        count := s.fifo.count + min r.data.length s.freeRun
        eos := s.fifo.eos || (r.last && decide (r.data.length ≤ s.freeRun))
        tail := if r.last = true ∧ r.data.length ≤ s.freeRun then r.tail else s.fifo.tail }
      reg := if r.last = true ∧ r.data.length ≤ s.freeRun ∧ r.err = true
        then { s.reg with rdErr := true } else s.reg } := by
  have htake : r.data.take (min r.data.length s.freeRun) = r.data.take s.freeRun := by
    rw [min_comm]
    exact List.take_eq_take_min.symm
  have hq : performReq r s = respond (.accept (BitVec.ofNat 16 (min r.data.length s.freeRun)))
      (if r.last = true ∧ r.data.length ≤ s.freeRun
        then endStream r.tail r.err (fifoWrite (r.data.take s.freeRun) s)
        else fifoWrite (r.data.take s.freeRun) s) := by
    simp [performReq, hproto, hbytes, htake]
  rw [hq, endStream_eq]
  by_cases hends : r.last = true ∧ r.data.length ≤ s.freeRun
  · simp [hends, fifoWrite]
  · have hkeeps : (r.last && decide (r.data.length ≤ s.freeRun)) = false := by simpa using hends
    have hnoErr : ¬ (r.last = true ∧ r.data.length ≤ s.freeRun ∧ r.err = true) :=
      fun ⟨hlast, hfits, _⟩ => hends ⟨hlast, hfits⟩
    rw [if_neg hends, if_neg hends, if_neg hnoErr, hkeeps, Bool.or_false]
    simp [fifoWrite, min_comm]

@[simp] theorem performReq_prd (r : PushReq) (s : State) : (performReq r s).prd = s.prd := by
  obtain ⟨-, hq⟩ | ⟨-, -, hq⟩ | ⟨-, -, hq⟩ := performReq_cases r s <;> rw [hq, respond_prd] <;>
    split_ifs <;> rfl

/-- A perform sends one response (41_producer_port.md rule R137). -/
theorem performReq_trace (r : PushReq) (s : State) :
    ∃ a : Response, (performReq r s).trace = s.trace ++ [.response a] := by
  obtain ⟨-, hq⟩ | ⟨-, -, hq⟩ | ⟨-, -, hq⟩ := performReq_cases r s <;> rw [hq, respond_trace]
  · exact ⟨_, rfl⟩
  all_goals
    refine ⟨_, congrArg (· ++ _) ?_⟩
    split_ifs <;> rfl

/-- A perform that is not held appends the accepted portion of its push to the stream. -/
theorem stored_perform {s : State} {r : PushReq} (hi : Inv s) (hr : s.prd.pending = some r)
    (hheld : held s = false) :
    stored (perform s) = stored s ++ if proto r s = true then [] else r.data.take s.freeRun := by
  obtain ⟨-, -, hwf, -⟩ := hi.fifo
  rw [perform_of_not_held hr hheld]
  exact stored_performReq (s := { s with prd := { pending := none } }) hwf r

/-- In a channel with room the perform of a push with bytes stores at least one. -/
theorem count_lt_perform {s : State} {r : PushReq} (hi : Inv s) (hr : s.prd.pending = some r)
    (hproto : proto r s = false) (hbytes : 0 < r.data.length) (hroom : s.fifo.count < s.cap) :
    s.fifo.count < (perform s).fifo.count := by
  have hfree : s.freeRun ≠ 0 := mt (freeRun_eq_zero_iff hroom.le).mp hroom.ne
  have hlen := congrArg List.length (stored_perform hi hr (held_eq_false_of_room hroom))
  simp only [hproto, Bool.false_eq_true, if_false, List.length_append, List.length_take, stored_length] at hlen
  omega

/-! ### The tick that refills -/

/-- A legal channel that stores a byte has one to refill from (42_synthesizer.md rule R153). -/
theorem refillCount_pos {s : State} (hi : Inv s) (hcount : 0 < s.fifo.count) : 0 < refillCount s := by
  obtain ⟨-, -, hlbuf, -⟩ := hi.params
  obtain ⟨hrd, -⟩ := hi.fifo
  have hdata : s.dataRun ≠ 0 := mt (dataRun_eq_zero_iff hrd).mp hcount.ne'
  unfold refillCount
  omega

/-- At the end of the loaded bits a tick with bytes to take loads the first bit of the refilled buffer,
which is never past the buffer (42_synthesizer.md rule R152). -/
theorem tickAdvance_of_refill {s : State} (hlbuf : 0 < s.params.lbufBytes) (hbs : s.syn.bs.isDone = true)
    (hbc : s.syn.bc.isLast = true) (hn : 0 < refillCount s) :
    tickAdvance s = .ok (.bit, bitLoaded (refill s)) := by
  have hindex : (refill s).syn.bc.index.toNat < 8 * (refill s).params.lbufBytes := by
    rw [refill_syn_bc, if_pos hn, refill_params]
    exact Nat.mul_pos (by decide) hlbuf
  rw [tickAdvance, if_pos hbs, if_pos hbc, if_neg hn.ne', loadBit, if_pos hindex]
  rfl

@[simp] theorem tickEmit_prd (turn : TickTurn) (s : State) : (tickEmit turn s).prd = s.prd := by
  simp only [tickEmit]
  split_ifs <;> rfl

theorem AdvanceEffect.prd_eq {s s1 : State} {turn : TickTurn} (h : AdvanceEffect s turn s1) :
    s1.prd = s.prd := by
  cases h <;> simp [bitLoaded]

/-- A refilling tick in a legal state, on the two records that the producer port reads. -/
theorem exec_tick_of_refill {s : State} (hi : Inv s) (hrun : s.syn.state = .running)
    (hbs : s.syn.bs.isDone = true) (hbc : s.syn.bc.isLast = true) (hcount : 0 < s.fifo.count) :
    ∃ t, exec .tick s = .next t ∧ t.fifo = (fifoDrop (refillCount s) s).fifo ∧ t.prd = s.prd := by
  obtain ⟨-, -, hlbuf, -⟩ := hi.params
  have hadvance := tickAdvance_of_refill hlbuf hbs hbc (refillCount_pos hi hcount)
  refine ⟨progressTick (tickEmit .bit (bitLoaded (refill s))), ?_, ?_, ?_⟩
  · change execTick s = _
    rw [execTick, if_pos hrun, runningTick, hadvance]
  · rw [progressTick_fifo, tickEmit_fifo]
    exact refill_fifo s
  · rw [progressTick_prd, tickEmit_prd]
    exact refill_prd s

/-! ### The event a step takes -/

theorem isPushTxn_of_decode {x : Txn} {tail : BitVec 3} {err : Bool} {data : List Byte}
    (hx : decode x = .ok (.push tail err data) ∨ decode x = .ok (.pushLast tail err data)) :
    isPushTxn x = true := by
  obtain hx | hx := hx <;> simp [isPushTxn, hx]

/-- A step that finds only an event that is not enabled changes nothing (log entry 2). -/
theorem step_of_disabled {s : State} {e : Event} (hin : s.inbox = [e]) (he : eventEnabled s e = false) :
    step s = .next s := by
  simp [step, nextEvent, hin, takeEvent, he]

/-- A tick goes past an event that is not enabled, which keeps its place (log entry 1). -/
theorem step_tick_of_disabled {s : State} {e : Event} {u : Txn} (hin : s.inbox = [e, .txn u])
    (he : eventEnabled s e = false) (hu : decode u = .ok .tick) :
    step s = exec .tick { s with inbox := [e] } := by
  have htick : eventEnabled s (.txn u) = true := by simp [eventEnabled, isPushTxn, hu]
  have hnext : nextEvent s = some (.txn u, { s with inbox := [e] }) := by
    simp [nextEvent, hin, takeEvent, he, htick]
  exact step_txn hnext hu

end Sys2Proof.Machine
end

section
/-! SUPPORT. What each step does to the pushes issued (41_producer_port.md rule R137). -/

namespace Sys2Proof

/-- The rows of format PUSH. -/
def Instr.isPush : Instr → Bool
  | .push _ _ _ | .pushLast _ _ _ => true
  | _ => false

end Sys2Proof

namespace Sys2Proof.Machine

theorem isPushTxn_eq_isPush {x : Txn} {i : Instr} (hx : decode x = .ok i) : isPushTxn x = i.isPush := by
  unfold isPushTxn
  rw [hx]
  cases i <;> rfl

/-- What a step that issues and performs no push can do to the producer port and the record of the ports
(`exec_ports` ties it to `exec`, `resetBlock_ports` to the reset). -/
inductive PortEffect (s t : State) : Prop where
  /-- Nothing is shown. -/
  | quiet (hprd : t.prd = s.prd) (htrace : t.trace = s.trace)
  /-- A word read or a sample record is shown. -/
  | shown (o : Obs) (ho : o.isResponse = false) (hprd : t.prd = s.prd) (htrace : t.trace = s.trace ++ [o])
  /-- The port is cleared, a push that was pending answered TERM. -/
  | ended (hprd : t.prd = { pending := none }) (htrace : t.trace = (terminatePending s).trace)

@[simp] theorem filter_isResponse_response (a : Response) :
    [Obs.response a].filter Obs.isResponse = [.response a] := rfl

theorem PortEffect.issued_eq {s t : State} (h : PortEffect s t) : issued t = issued s := by
  cases h with
  | quiet hprd htrace => simp [issued, hprd, htrace]
  | shown o ho hprd htrace => simp [issued, hprd, htrace, ho]
  | ended hprd htrace =>
    cases hp : s.prd.pending <;> simp [issued, hprd, htrace, hp]

theorem PortEffect.trace_prefix {s t : State} (h : PortEffect s t) : s.trace <+: t.trace := by
  cases h with
  | quiet _ htrace => rw [htrace]
  | shown o _ _ htrace => exact htrace ▸ List.prefix_append _ _
  | ended _ htrace =>
    rw [htrace, terminatePending_trace]
    split_ifs
    exacts [List.prefix_rfl, List.prefix_append _ _]

theorem configWrite_ports {off : Byte} {r : Reg} {s t : State} (h : configWrite off r s = .next t) :
    PortEffect s t := by
  obtain ⟨-, rfl⟩ | ⟨-, rfl⟩ := configWrite_cases h <;> exact .quiet rfl rfl

theorem execWrCmdOpen_ports {s t : State} (h : execWrCmdOpen s = .next t) : PortEffect s t := by
  unfold execWrCmdOpen at h
  split_ifs at h <;> cases h
  · exact .quiet rfl rfl
  · exact .ended (openChannel_prd s) rfl

theorem execWrCmdStart_ports {s t : State} (h : execWrCmdStart s = .next t) : PortEffect s t := by
  unfold execWrCmdStart at h
  split_ifs at h <;> cases h <;> exact .quiet rfl rfl

theorem execWrCmdReserved_ports {d : Word} {s t : State} (h : execWrCmdReserved d s = .next t) :
    PortEffect s t := by
  unfold execWrCmdReserved at h
  split_ifs at h
  cases h
  exact .quiet rfl rfl

theorem execWrInvalid_ports {off : Byte} {d : Word} {s t : State} (h : execWrInvalid off d s = .next t) :
    PortEffect s t := by
  unfold execWrInvalid at h
  split at h <;> cases h
  exact .quiet rfl rfl

theorem execRdInvalid_ports {off : Byte} {s t : State} (h : execRdInvalid off s = .next t) :
    PortEffect s t := by
  unfold execRdInvalid at h
  split at h <;> cases h
  exact .shown _ rfl rfl rfl

theorem answerRead_ports {v : Word} {s t : State} (h : answerRead v s = .next t) : PortEffect s t := by
  cases h
  exact .shown _ rfl rfl rfl

theorem execTick_prd {s t : State} (h : execTick s = .next t) : t.prd = s.prd := by
  obtain ⟨-, rfl⟩ | ⟨-, turn, s1, ha, rfl⟩ := execTick_cases h
  · rfl
  · rw [progressTick_prd, tickEmit_prd, (tickAdvance_effect ha).prd_eq]

theorem execTick_ports {s t : State} (h : execTick s = .next t) : PortEffect s t := by
  obtain ⟨x, htrace, -⟩ := execTick_record h
  exact .shown (.sample x) rfl (execTick_prd h) htrace

/-- Every transaction but a push. -/
theorem exec_ports {i : Instr} {s t : State} (h : exec i s = .next t) (hi : i.isPush = false) :
    PortEffect s t := by
  cases i with
  | wrCmdOpen => exact execWrCmdOpen_ports h
  | wrCmdStart => exact execWrCmdStart_ports h
  | wrCmdStop =>
    cases h
    exact .ended (stopTransmission_prd s) rfl
  | wrCmdReserved d => exact execWrCmdReserved_ports h
  | wrCmdNop | wrStatus | wrIrqEn | wrProgress | wrProgSnap | wrFifoLevel | wrParams | wrErrInfo =>
    cases h
    exact .quiet rfl rfl
  | wrConfig | wrSpb | wrPhaseInc | wrBlock => exact configWrite_ports h
  | wrInvalid off d => exact execWrInvalid_ports (d := d) h
  | rdCmd | rdStatus | rdIrqEn | rdConfig | rdSpb | rdPhaseInc | rdBlock | rdProgress | rdProgSnap
  | rdFifoLevel | rdParams | rdErrInfo => exact answerRead_ports h
  | rdInvalid off => exact execRdInvalid_ports h
  | push | pushLast => cases hi
  | tick => exact execTick_ports h

theorem resetBlock_ports (s : State) : PortEffect s (resetBlock s) := .ended rfl rfl

/-- A push issued with none pending is answered TERM or becomes pending, so it counts once either way. -/
theorem issuePush_issued {r : PushReq} {s t : State} (h : issuePush r s = .next t)
    (hnone : s.prd.pending = none) : issued t = issued s + 1 ∧ s.trace <+: t.trace := by
  obtain ⟨-, ⟨hsome, -⟩ | ⟨-, -, rfl⟩ | ⟨-, -, rfl⟩⟩ := issuePush_cases h
  · simp [hnone] at hsome
  · exact ⟨by simp [issued, hnone], List.prefix_append _ _⟩
  · exact ⟨by simp [issued, hnone], List.prefix_rfl⟩

/-- A perform turns the pending push into one response. -/
theorem perform_issued (s : State) : issued (perform s) = issued s ∧ s.trace <+: (perform s).trace := by
  obtain ⟨-, hq⟩ | ⟨-, r, hr, -, hq⟩ := perform_cases s <;> rw [hq]
  · exact ⟨rfl, List.prefix_rfl⟩
  · obtain ⟨a, htrace⟩ := performReq_trace r { s with prd := { pending := none } }
    exact ⟨by simp [issued, htrace, hr], htrace ▸ List.prefix_append _ _⟩

/-- A transaction counts once if it is a push taken with none pending, and else not at all. -/
theorem exec_issued {i : Instr} {s t : State} (h : exec i s = .next t)
    (hnone : i.isPush = true → s.prd.pending = none) :
    issued t = issued s + (if i.isPush = true then 1 else 0) ∧ s.trace <+: t.trace := by
  cases hi : i.isPush with
  | false => exact ⟨(exec_ports h hi).issued_eq, (exec_ports h hi).trace_prefix⟩
  | true =>
    cases i with
    | push | pushLast => exact issuePush_issued h (hnone hi)
    | _ => cases hi

end Sys2Proof.Machine
end

section
/-! The statements of 41_producer_port.md. -/

namespace Sys2Proof.Machine

/-! ### Issue -/

/-- Settles O22: both rows are the one operation `issuePush`. -/
theorem pushIssueEntersPort : Obligations.PushIssueEntersPort := fun _ _ _ _ hlen hnone =>
  ⟨issuePush_of_none hlen hnone, issuePush_of_none hlen hnone⟩

/-- Settles O23: a push issue is not enabled while a push is pending. -/
theorem secondPushWaits : Obligations.SecondPushWaits := by
  intro tail err data s r hlen hr
  refine ⟨issuePush_of_pending hlen hr, issuePush_of_pending hlen hr, fun x hx => ?_⟩
  have hdisabled : eventEnabled s (.txn x) = false := by
    simp [eventEnabled, isPushTxn_of_decode hx, hr]
  exact ⟨fun hin => step_of_disabled hin hdisabled, fun u hu hin => step_tick_of_disabled hin hdisabled hu⟩

/-! ### The hold -/

/-- Settles O25: `held_iff`, with the protocol predicate written out. -/
theorem holdIsRuleR134 : Obligations.HoldIsRuleR134 := by
  intro s
  simp only [held_iff, State.cap, ← proto_iff _ s, Bool.not_eq_true]

/-- Settles O26: perform is not enabled while the push is held. -/
theorem heldPushHasNoPerform : Obligations.HeldPushHasNoPerform := by
  intro s hheld
  have hdisabled : eventEnabled s .perform = false := by simp [eventEnabled, performEnabled, hheld]
  exact ⟨fun hin => step_of_disabled hin hdisabled, fun u hu hin => step_tick_of_disabled hin hdisabled hu⟩

/-- Settles O27: the refill takes at least one byte, so the channel has room and the push is no longer
held; EOS is untouched, so its perform is still no PROTO and stores a byte. -/
theorem refillLiftsHold : Obligations.RefillLiftsHold := by
  intro s hi hheld hrun hbs hbc
  obtain ⟨r, hr, -, hbytes, hproto, hfull⟩ := (held_iff s).mp hheld
  have hcount : 0 < s.fifo.count := hfull ▸ cap_pos s
  obtain ⟨t, ht, hfifo, hprd⟩ := exec_tick_of_refill hi hrun
    ((isDone_iff _).mpr (BitVec.le_def.mp hbs)) ((isLast_iff _).mpr hbc) hcount
  have htaken : t.fifo.count < s.fifo.count := by
    rw [hfifo]
    exact Nat.sub_lt hcount (refillCount_pos hi hcount)
  have hroom : t.fifo.count < t.cap := by
    rw [State.cap, exec_params ht, ← State.cap, ← hfull]
    exact htaken
  have htr : t.prd.pending = some r := by rw [hprd, hr]
  have hnotHeld : held t = false := held_eq_false_of_room hroom
  have htproto : proto r t = false := (proto_congr (by rw [hfifo]; rfl) r).trans hproto
  refine ⟨t, ht, htaken, hprd, performEnabled_of_not_held htr hnotHeld, ?_,
    count_lt_perform (inv_exec hi ht) htr htproto hbytes hroom⟩
  rw [perform_of_not_held htr hnotHeld, performReq_prd]

/-! ### Perform -/

/-- Settles O24: the step is `performReq`, in the three cases of its rule. -/
theorem performAnswersPush : Obligations.PerformAnswersPush := by
  intro s r rest hin hr hheld
  have hnext := nextEvent_head hin (performEnabled_of_not_held hr hheld)
  have hstep : step s = .next (performReq r { s with inbox := rest, prd := { pending := none } }) := by
    simp only [step, hnext]
    exact congrArg Host.Outcome.next (perform_of_not_held (s := { s with inbox := rest }) hr hheld)
  rw [hstep]
  simp only [← proto_iff]
  congr 1
  by_cases hproto : proto r s = true
  · rw [if_pos hproto]
    exact performReq_of_proto hproto
  have hnot : proto r s = false := by simpa using hproto
  rw [if_neg hproto]
  by_cases hempty : r.data.length = 0
  · rw [if_pos hempty]
    exact performReq_of_empty hnot hempty
  · rw [if_neg hempty]
    exact performReq_of_bytes hnot hempty

/-- Settles O28: the stream law of the perform (`stored_perform`). -/
theorem performAppendsToStream : Obligations.PerformAppendsToStream :=
  fun _ _ hi hr hheld => stored_perform hi hr hheld

/-! ### Every push is answered once -/

/-- Settles O29, event by event: a perform, a reset, or a transaction, which is a push only when none is
pending. -/
theorem everyPushAnsweredOnce : Obligations.EveryPushAnsweredOnce := by
  intro s t h
  obtain ⟨hn, rfl⟩ | ⟨s1, hn, rfl⟩ | ⟨s1, hn, rfl⟩ | ⟨x, s1, i, hn, hd, hx⟩ := step_cases h <;>
    simp only [hn]
  · exact ⟨rfl, List.prefix_rfl⟩
  all_goals obtain ⟨henabled, rest, -, rfl⟩ := nextEvent_some hn
  · exact perform_issued { s with inbox := rest }
  · have hports := resetBlock_ports { s with inbox := rest }
    exact ⟨hports.issued_eq, hports.trace_prefix⟩
  · rw [isPushTxn_eq_isPush hd]
    refine exec_issued (s := { s with inbox := rest }) hx fun hi => ?_
    simpa [eventEnabled, isPushTxn_eq_isPush hd, hi] using henabled

end Sys2Proof.Machine
end

section
/-! SUPPORT. The tick, said once: its emission and progress event field by field, its advance as total in
legal states, and what a tick and every other transaction leave of the synthesizer and of PROGRESS
(42_synthesizer.md rules R150 to R160). -/

namespace Sys2Proof.Machine

/-! ### The carrier -/

/-- The table index as a number: the phase's top 8 bits (42_synthesizer.md rule R156). -/
theorem phaseIndex_eq_ofNat (p : Word) : phaseIndex p = BitVec.ofNat 8 (p.toNat / 2 ^ 24) := by
  apply BitVec.eq_of_toNat_eq
  rw [phaseIndex, BitVec.extractLsb'_toNat, BitVec.toNat_ofNat, Nat.shiftRight_eq_div_pow]

theorem envelopeSample_on (p : Word) : envelopeSample true p =
    { i := lut (BitVec.ofNat 8 (p.toNat / 2 ^ 24 + 64)), q := lut (BitVec.ofNat 8 (p.toNat / 2 ^ 24))
      active := true } := by
  rw [BitVec.ofNat_add, ← phaseIndex_eq_ofNat]
  rfl

/-! ### Counts and Cursors -/

theorem refillCount_le_count (s : State) : refillCount s ≤ s.fifo.count :=
  (refillCount_le_dataRun s).trans (dataRun_le_count s)

theorem index_lt_of_not_isDone {c : Cursor} (h : c.isDone = false) : c.index.toNat < c.total.toNat := by
  simpa [h] using isDone_iff c

theorem index_succ_lt_of_not_isLast {c : Cursor} (h : c.isLast = false) :
    c.index.toNat + 1 < c.total.toNat := by
  simpa [h] using isLast_iff c

/-- Before the last bit the bit cursor's step does not wrap (10_state.md rule R16). -/
theorem bump_index_of_not_isLast {c : Cursor} (h : c.isLast = false) :
    c.bump.index.toNat = c.index.toNat + 1 := by
  have := index_succ_lt_of_not_isLast h
  rw [bump_index_toNat]
  omega

/-! ### The emission -/

theorem tickEmit_bit (s : State) : tickEmit .bit s =
    emitCarrier s.syn.curBit { s with syn := { s.syn with starved := false } } := by
  simp [tickEmit]

theorem tickEmit_starved (s : State) : tickEmit .starved s =
    emitCarrier false { s with syn := { s.syn with starved := true } } := by
  simp [tickEmit]

theorem tickEmit_completed (s : State) : tickEmit .completed s =
    complete { s with syn := { s.syn with starved := false } } := by
  simp [tickEmit]

/-- What the emission writes of the synthesizer: state, STARVED and, unless the tick completes, the
phase (42_synthesizer.md rules R152, R155, R156). -/
theorem tickEmit_syn (turn : TickTurn) (s : State) : (tickEmit turn s).syn = { s.syn with
    state := if turn = .completed then .done else s.syn.state
    starved := decide (turn = .starved)
    phase := if turn = .completed then s.syn.phase else s.syn.phase + s.reg.phaseInc } := by
  cases turn
  · rw [tickEmit_bit]; rfl
  · rw [tickEmit_starved]; rfl
  · rw [tickEmit_completed]; rfl

/-- Only a completion writes registers (42_synthesizer.md rule R155). -/
theorem tickEmit_reg (turn : TickTurn) (s : State) : (tickEmit turn s).reg =
    if turn = .completed then { s.reg with done := true, progSnap := s.reg.progress } else s.reg := by
  simp only [tickEmit]
  split_ifs <;> rfl

/-- The record a tick emits (42_synthesizer.md rules R155, R157). -/
theorem tickEmit_trace (turn : TickTurn) (s : State) : (tickEmit turn s).trace = s.trace ++ [.sample
    (if turn = .completed then silence false
     else envelopeSample (s.syn.curBit && decide (turn ≠ .starved)) s.syn.phase)] := by
  simp only [tickEmit]
  split_ifs <;> rfl

/-! ### The progress event -/

theorem progressTick_syn_blk (s : State) : (progressTick s).syn.blk =
    if s.reg.block = 0#32 then s.syn.blk
    else if s.syn.blk + 1#32 = s.reg.block then 0#32 else s.syn.blk + 1#32 := by
  unfold progressTick
  split_ifs <;> rfl

theorem progressTick_reg_prog (s : State) : (progressTick s).reg.prog =
    if s.reg.block ≠ 0#32 ∧ s.syn.blk + 1#32 = s.reg.block then true else s.reg.prog := by
  unfold progressTick
  split_ifs <;> simp_all

theorem progressTick_reg_progSnap (s : State) : (progressTick s).reg.progSnap =
    if s.reg.block ≠ 0#32 ∧ s.syn.blk + 1#32 = s.reg.block then s.reg.progress else s.reg.progSnap := by
  unfold progressTick
  split_ifs <;> simp_all

/-! ### The advance -/

theorem AdvanceEffect.fifo_frame {s s1 : State} {turn : TickTurn} (h : AdvanceEffect s turn s1) :
    s1.fifo.eos = s.fifo.eos ∧ s1.fifo.tail = s.fifo.tail ∧ s1.fifo.count ≤ s.fifo.count := by
  cases h <;> simp [bitLoaded]

theorem AdvanceEffect.syn_frame {s s1 : State} {turn : TickTurn} (h : AdvanceEffect s turn s1) :
    s1.syn.phase = s.syn.phase ∧ s1.syn.blk = s.syn.blk ∧ s1.syn.bs.total = s.syn.bs.total := by
  cases h <;> simp [bitLoaded, Cursor.bump, Cursor.startOver]

/-- A refill counts in PROGRESS the bytes that leave the channel (42_synthesizer.md rule R153). -/
theorem refill_reg_eq (s : State) : (refill s).reg = { s.reg with
    progress := s.reg.progress + BitVec.ofNat 32 (s.fifo.count - (refill s).fifo.count) } := by
  have hn : refillCount s ≤ s.fifo.count := refillCount_le_count s
  simp only [refill_reg, refill_fifo, fifoDrop_fifo, Nat.sub_sub_self hn]

theorem AdvanceEffect.reg_eq {s s1 : State} {turn : TickTurn} (h : AdvanceEffect s turn s1) :
    s1.reg = { s.reg with
      progress := s.reg.progress + BitVec.ofNat 32 (s.fifo.count - s1.fifo.count) } := by
  cases h with
  | sample | nextBit => simp [bitLoaded]
  | firstBit | starved | completed => exact refill_reg_eq s

/-! ### The running tick -/

/-- In a legal state the bit to load lies inside the local buffer, so the advance succeeds
(42_synthesizer.md rule R154). -/
theorem tickAdvance_ok {s : State} (hi : Inv s) : ∃ turn s1, tickAdvance s = .ok (turn, s1) := by
  obtain ⟨-, -, htot, -⟩ := hi.syn
  obtain ⟨-, -, hlbuf, -⟩ := hi.params
  obtain ⟨-, ha⟩ | ⟨-, hbc, ha⟩ | ⟨hbs, hbc, hn, -⟩ | ⟨-, -, -, -, ha⟩ | ⟨-, -, -, -, ha⟩ :=
    tickAdvance_cases s
  · exact ⟨_, _, ha⟩
  · have hlt := index_succ_lt_of_not_isLast hbc
    have hindex : s.syn.bc.bump.index.toNat < 8 * s.params.lbufBytes := by
      rw [bump_index_of_not_isLast hbc]
      omega
    rw [ha, loadBit, if_pos hindex]
    exact ⟨_, _, rfl⟩
  · exact ⟨_, _, tickAdvance_of_refill hlbuf hbs hbc (Nat.pos_of_ne_zero hn)⟩
  · exact ⟨_, _, ha⟩
  · exact ⟨_, _, ha⟩

/-- A running tick that goes on is an advance, an emission and the progress event. -/
theorem exec_tick_running {s t : State} (hrun : s.syn.state = .running) (h : exec .tick s = .next t) :
    ∃ turn s1, AdvanceEffect s turn s1 ∧ t = progressTick (tickEmit turn s1) := by
  obtain ⟨hidle, -⟩ | ⟨-, turn, s1, ha, rfl⟩ := execTick_cases h
  · exact absurd hrun hidle
  · exact ⟨turn, s1, tickAdvance_effect ha, rfl⟩

/-- In a legal state a running tick goes on (42_synthesizer.md rule R150). -/
theorem exec_tick_of_inv {s : State} (hi : Inv s) (hrun : s.syn.state = .running) :
    ∃ turn s1, AdvanceEffect s turn s1 ∧ exec .tick s = .next (progressTick (tickEmit turn s1)) := by
  obtain ⟨turn, s1, ha⟩ := tickAdvance_ok hi
  refine ⟨turn, s1, tickAdvance_effect ha, ?_⟩
  change execTick s = _
  rw [execTick, if_pos hrun, runningTick, ha]

theorem exec_tick_idle {s : State} (hidle : s.syn.state ≠ .running) : exec .tick s = .next (idleTick s) :=
  if_neg hidle

/-- In every legal state a TICK has a step (42_synthesizer.md rule R150). -/
theorem exec_tick_ok {s : State} (hi : Inv s) : ∃ t, exec .tick s = .next t := by
  by_cases hrun : s.syn.state = .running
  · obtain ⟨turn, s1, -, ht⟩ := exec_tick_of_inv hi hrun
    exact ⟨_, ht⟩
  · exact ⟨_, exec_tick_idle hrun⟩

/-- No part of a TICK writes the error registers (42_synthesizer.md rule R150). -/
theorem exec_tick_errors {s t : State} (h : exec .tick s = .next t) :
    t.reg.cmdErr = s.reg.cmdErr ∧ t.reg.accErr = s.reg.accErr ∧
      t.reg.errCode = s.reg.errCode ∧ t.reg.errOff = s.reg.errOff := by
  by_cases hrun : s.syn.state = .running
  · obtain ⟨turn, s1, he, rfl⟩ := exec_tick_running hrun h
    simp only [progressTick_reg_cmdErr, progressTick_reg_accErr, progressTick_reg_errCode,
      progressTick_reg_errOff, tickEmit_reg, he.reg_eq]
    split_ifs <;> simp
  · cases (exec_tick_idle hrun).symm.trans h
    simp

/-- A TICK keeps the synthesizer's state or takes it from RUNNING into DONE (42_synthesizer.md rules
R151, R155). -/
theorem exec_tick_state {s t : State} (h : exec .tick s = .next t) :
    t.syn.state = s.syn.state ∨ (s.syn.state = .running ∧ t.syn.state = .done) := by
  by_cases hrun : s.syn.state = .running
  · obtain ⟨turn, s1, he, rfl⟩ := exec_tick_running hrun h
    obtain ⟨-, -, hstate⟩ := he.frame
    rw [progressTick_syn_state, tickEmit_syn_state, hstate]
    split_ifs
    exacts [.inr ⟨hrun, rfl⟩, .inl rfl]
  · cases (exec_tick_idle hrun).symm.trans h
    exact .inl rfl

/-- A TICK counts in PROGRESS the bytes that leave the channel (42_synthesizer.md rules R153, R158). -/
theorem exec_tick_progress {s t : State} (h : exec .tick s = .next t) :
    t.fifo.count ≤ s.fifo.count ∧
      t.reg.progress = s.reg.progress + BitVec.ofNat 32 (s.fifo.count - t.fifo.count) := by
  by_cases hrun : s.syn.state = .running
  · obtain ⟨turn, s1, he, rfl⟩ := exec_tick_running hrun h
    obtain ⟨-, -, hcount⟩ := he.fifo_frame
    have hreg : (tickEmit turn s1).reg.progress = s1.reg.progress := by
      rw [tickEmit_reg]
      split_ifs <;> rfl
    rw [progressTick_fifo, tickEmit_fifo, progressTick_reg_progress, hreg, he.reg_eq]
    exact ⟨hcount, rfl⟩
  · cases (exec_tick_idle hrun).symm.trans h
    simp

/-! ### The running tick in full -/

theorem refill_eq_self {s : State} (hrd : s.fifo.rd < s.cap) (hn : refillCount s = 0) : refill s = s := by
  simp only [refill, hn, fifoPeek, Memory.readBytes, Memory.writeBytes, fifoDrop, Nat.add_zero, Nat.sub_zero,
    Nat.mod_eq_of_lt hrd, BitVec.add_zero]
  rfl

/-- The padding a refill drops, on the state before it (42_synthesizer.md rule R153). -/
theorem padBits_fifoDrop {s : State} {n : Nat} (hn : n ≤ s.fifo.count) : padBits (fifoDrop n s) =
    if s.fifo.eos = true ∧ s.fifo.count = n ∧ s.fifo.tail ≠ 0#3 then 8 - s.fifo.tail.toNat else 0 := by
  have hzero : s.fifo.count - n = 0 ↔ s.fifo.count = n := by omega
  simp only [padBits, fifoDrop_fifo, hzero, Bool.and_eq_true, decide_eq_true_eq, bne_iff_ne, ne_eq, and_assoc]

/-- A refill that takes bytes, as one state (42_synthesizer.md rule R153). -/
theorem refill_of_pos {s : State} (hn : 0 < refillCount s) : refill s = { s with
    fifo := { s.fifo with rd := (s.fifo.rd + refillCount s) % s.cap, count := s.fifo.count - refillCount s }
    syn := { s.syn with
      bc := { index := 0#32
              total := BitVec.ofNat 32 (8 * refillCount s - padBits (fifoDrop (refillCount s) s)) }
      lbuf := s.syn.lbuf.writeBytes 0 (fifoPeek (refillCount s) s) }
    reg := { s.reg with progress := s.reg.progress + BitVec.ofNat 32 (refillCount s) } } := by
  simp only [refill, if_pos hn]
  rfl

/-- The first bit of a refilled buffer is the most significant bit of the oldest stored byte
(42_synthesizer.md rule R154). -/
theorem lbufBit_zero_refill {s : State} (hwf : s.syn.lbuf.wf = true) (hn : 0 < refillCount s) :
    lbufBit 0 (refill s) = (s.fifo.mem.read s.fifo.rd).getLsbD 7 := by
  obtain ⟨n, hsucc⟩ := Nat.exists_eq_add_of_lt hn
  rw [lbufBit, refill_syn_lbuf, read_writeBytes hwf]
  simp [hsucc, fifoPeek, Memory.readBytes]

/-- A tick that loads a bit emits its first sample (42_synthesizer.md rule R152). -/
theorem tickEmit_bitLoaded {s : State} {b : Bool} (hb : lbufBit s.syn.bc.index.toNat s = b) :
    tickEmit .bit (bitLoaded s) = { s with
      syn := { s.syn with
        bs := { s.syn.bs with index := 1#32 }
        curBit := b
        starved := false
        phase := s.syn.phase + s.reg.phaseInc }
      trace := s.trace ++ [.sample (envelopeSample b s.syn.phase)] } := by
  subst hb
  rw [tickEmit_bit]
  rfl

/-! ### What keeps the synthesizer's record and PROGRESS -/

/-- The synthesizer's record and PROGRESS are kept. -/
structure KeepsSession (s t : State) : Prop where
  syn : t.syn = s.syn
  progress : t.reg.progress = s.reg.progress

theorem answerRead_keeps {v : Word} {s t : State} (h : answerRead v s = .next t) : KeepsSession s t := by
  cases h
  exact ⟨rfl, rfl⟩

theorem issuePush_keeps {r : PushReq} {s t : State} (h : issuePush r s = .next t) : KeepsSession s t := by
  obtain ⟨-, ⟨-, rfl⟩ | ⟨-, -, rfl⟩ | ⟨-, -, rfl⟩⟩ := issuePush_cases h <;> exact ⟨rfl, rfl⟩

theorem configWrite_keeps {off : Byte} {r : Reg} {s t : State} (h : configWrite off r s = .next t)
    (hr : r.progress = s.reg.progress) : KeepsSession s t := by
  obtain ⟨-, rfl⟩ | ⟨-, rfl⟩ := configWrite_cases h
  exacts [⟨rfl, rfl⟩, ⟨rfl, hr⟩]

theorem execWrCmdOpen_keeps {s t : State} (h : execWrCmdOpen s = .next t) : KeepsSession s t := by
  unfold execWrCmdOpen at h
  split_ifs at h <;> cases h
  exacts [⟨rfl, rfl⟩, ⟨openChannel_syn s, by rw [openChannel_reg]⟩]

theorem execWrCmdReserved_keeps {d : Word} {s t : State} (h : execWrCmdReserved d s = .next t) :
    KeepsSession s t := by
  unfold execWrCmdReserved at h
  split_ifs at h
  cases h
  exact ⟨rfl, rfl⟩

theorem execWrInvalid_keeps {off : Byte} {d : Word} {s t : State} (h : execWrInvalid off d s = .next t) :
    KeepsSession s t := by
  unfold execWrInvalid at h
  split at h <;> cases h
  exact ⟨rfl, rfl⟩

theorem execRdInvalid_keeps {off : Byte} {s t : State} (h : execRdInvalid off s = .next t) :
    KeepsSession s t := by
  unfold execRdInvalid at h
  split at h <;> cases h
  exact ⟨rfl, rfl⟩

/-- START is refused, or begins a transmission (40_control_port.md rule R109). -/
theorem exec_start_cases {s t : State} (h : exec .wrCmdStart s = .next t) :
    KeepsSession s t ∨ (s.syn.state ≠ .running ∧ t = startTransmission s) := by
  change execWrCmdStart s = _ at h
  unfold execWrCmdStart at h
  split_ifs at h with hrun <;> cases h
  exacts [.inl ⟨rfl, rfl⟩, .inl ⟨rfl, rfl⟩, .inl ⟨rfl, rfl⟩, .inr ⟨hrun, rfl⟩]

/-- Only START, STOP and TICK touch the synthesizer's record or PROGRESS (42_synthesizer.md rules R158,
R160). -/
theorem exec_keeps {i : Instr} {s t : State} (h : exec i s = .next t) (hstart : i ≠ .wrCmdStart)
    (hstop : i ≠ .wrCmdStop) (htick : i ≠ .tick) : KeepsSession s t := by
  cases i with
  | wrCmdStart => exact absurd rfl hstart
  | wrCmdStop => exact absurd rfl hstop
  | tick => exact absurd rfl htick
  | wrCmdOpen => exact execWrCmdOpen_keeps h
  | wrCmdReserved d => exact execWrCmdReserved_keeps h
  | wrCmdNop | wrStatus | wrIrqEn | wrProgress | wrProgSnap | wrFifoLevel | wrParams | wrErrInfo =>
    cases h
    exact ⟨rfl, rfl⟩
  | wrConfig | wrSpb | wrPhaseInc | wrBlock => exact configWrite_keeps h rfl
  | wrInvalid off d => exact execWrInvalid_keeps (d := d) h
  | rdCmd | rdStatus | rdIrqEn | rdConfig | rdSpb | rdPhaseInc | rdBlock | rdProgress | rdProgSnap
  | rdFifoLevel | rdParams | rdErrInfo => exact answerRead_keeps h
  | rdInvalid off => exact execRdInvalid_keeps h
  | push | pushLast => exact issuePush_keeps h

theorem performReq_keeps (r : PushReq) (s : State) : KeepsSession s (performReq r s) := by
  obtain ⟨-, hq⟩ | ⟨-, -, hq⟩ | ⟨-, -, hq⟩ := performReq_cases r s <;> rw [hq]
  · exact ⟨rfl, rfl⟩
  all_goals
    split_ifs
    all_goals exact ⟨rfl, rfl⟩

theorem perform_keeps (s : State) : KeepsSession s (perform s) := by
  obtain ⟨-, hq⟩ | ⟨-, r, -, -, hq⟩ := perform_cases s <;> rw [hq]
  · exact ⟨rfl, rfl⟩
  · obtain ⟨hsyn, hprogress⟩ := performReq_keeps r { s with prd := { pending := none } }
    exact ⟨hsyn, hprogress⟩

/-! ### Every step -/

theorem offsetCheck_of_wf {off : Byte} (h : offsetInvalid off = true) : ∃ c, offsetCheck off = some c :=
  Option.isSome_iff_exists.mp ((offsetCheck_isSome off).trans h)

theorem issuePush_ok {r : PushReq} (s : State) (h : pushLengthOk r.data = true) :
    ∃ t, issuePush r s = .next t := by
  have hlen : r.data.length < 65536 := of_decide_eq_true h
  cases hp : s.prd.pending with
  | none => exact ⟨_, issuePush_of_none hlen hp⟩
  | some q => exact ⟨_, issuePush_of_pending hlen hp⟩

/-- A transaction refuses only a term that is not well formed, and faults in no legal state
(42_synthesizer.md rules R150, R154; log entry 10). -/
theorem exec_ok {i : Instr} {s : State} (hi : Inv s) (hwf : i.wf = true) : ∃ t, exec i s = .next t := by
  cases i with
  | wrCmdOpen => exact ⟨_, openBeginsSession s⟩
  | wrCmdStart => exact ⟨_, startBeginsTransmission s⟩
  | wrCmdReserved d => exact ⟨_, if_pos hwf⟩
  | wrConfig | wrSpb | wrPhaseInc | wrBlock => exact ⟨_, configWrite_eq_next _ _ _⟩
  | wrInvalid off d =>
    obtain ⟨c, hc⟩ := offsetCheck_of_wf hwf
    exact ⟨raiseAccErr c off s, by simp only [exec, execWrInvalid, hc]⟩
  | rdInvalid off =>
    obtain ⟨c, hc⟩ := offsetCheck_of_wf hwf
    exact ⟨observe (.read 0#32) (raiseAccErr c off s), by simp only [exec, execRdInvalid, hc]⟩
  | push | pushLast => exact issuePush_ok s hwf
  | tick => exact exec_tick_ok hi
  | _ => exact ⟨_, rfl⟩

/-- In a legal state a step goes on or refuses what spells no transaction. -/
theorem step_of_inv {s : State} (hi : Inv s) :
    (∃ t, step s = .next t) ∨ ∃ why, step s = .refused (.noTransaction why) := by
  unfold step
  split
  · exact .inl ⟨_, rfl⟩
  · exact .inl ⟨_, rfl⟩
  · exact .inl ⟨_, rfl⟩
  · next x s1 hn =>
    split
    · next i hd =>
      obtain ⟨hwf, -⟩ := decodedIsWellFormedAndReencodes x i hd
      exact .inl (exec_ok (inv_nextEvent hi hn) hwf)
    · exact .inr ⟨_, rfl⟩

end Sys2Proof.Machine
end

section
/-! SUPPORT. The transmission of a whole stream (42_synthesizer.md rule R161): the bits still to send, what
an advance makes of them, and the state after `k` ticks as an invariant that the next tick keeps. -/

namespace Sys2Proof.Machine

/-! ### The bits of a stream -/

/-- The valid bits of a stream, in the order of 20_memory.md rule R57. -/
def streamBitList (bytes : List Byte) (tail : BitVec 3) : List Bool :=
  (List.range (streamBits bytes tail)).map (streamBit bytes)

@[simp] theorem streamBitList_length (bytes : List Byte) (tail : BitVec 3) :
    (streamBitList bytes tail).length = streamBits bytes tail := by
  simp [streamBitList]

@[simp] theorem streamBitList_nil (tail : BitVec 3) : streamBitList [] tail = [] := by
  simp [streamBitList, streamBits]

theorem padding_lt {tail : BitVec 3} (h : tail ≠ 0#3) : 8 - tail.toNat < 8 := by
  have : tail.toNat ≠ 0 := fun h0 => h (BitVec.eq_of_toNat_eq h0)
  omega

/-- TAIL leaves at least one bit of the final byte (10_state.md rule R22). -/
theorem streamBits_pos {bytes : List Byte} (h : 0 < bytes.length) (tail : BitVec 3) :
    0 < streamBits bytes tail := by
  unfold streamBits
  split_ifs with htail
  · omega
  · have := padding_lt htail
    omega

theorem streamBit_drop (bytes : List Byte) (n j : Nat) :
    streamBit (bytes.drop n) j = streamBit bytes (8 * n + j) := by
  have hbyte : (8 * n + j) / 8 = n + j / 8 := Nat.mul_add_div (by decide) n j
  have hbit : (8 * n + j) % 8 = j % 8 := Nat.mul_add_mod 8 n j
  simp only [streamBit, hbyte, hbit, List.getD_eq_getElem?_getD, List.getElem?_drop]

/-- A stream's bits are those of its first bytes, the padding dropped if they end it, and then those of the
rest. -/
theorem streamBitList_split {bytes : List Byte} {n : Nat} (hn : n ≤ bytes.length) (tail : BitVec 3) :
    streamBitList bytes tail =
      (List.range (8 * n - if bytes.length = n ∧ tail ≠ 0#3 then 8 - tail.toNat else 0)).map
        (streamBit bytes) ++ streamBitList (bytes.drop n) tail := by
  obtain rfl | hlt := hn.eq_or_lt
  · simp [streamBitList, streamBits]
  · have hrest : streamBits bytes tail = 8 * n + streamBits (bytes.drop n) tail := by
      have := tail.isLt
      simp only [streamBits, List.length_drop]
      split_ifs <;> omega
    rw [if_neg (fun h => hlt.ne' h.1), Nat.sub_zero, streamBitList, hrest, List.range_add, List.map_append,
      List.map_map, streamBitList]
    congr 1
    exact List.map_congr_left fun j _ => (streamBit_drop bytes n j).symm

/-- The bit at the head of what is left of a stream after `q` bits. -/
theorem streamBitList_drop_cons {bytes : List Byte} {tail : BitVec 3} {q : Nat} {b : Bool} {l : List Bool}
    (h : (streamBitList bytes tail).drop q = b :: l) :
    b = streamBit bytes q ∧ l = (streamBitList bytes tail).drop (q + 1) := by
  have hq : q < (streamBitList bytes tail).length := by
    by_contra hle
    rw [List.drop_eq_nil_of_le (Nat.not_lt.mp hle)] at h
    cases h
  rw [List.drop_eq_getElem_cons hq] at h
  obtain ⟨hhead, htail⟩ := List.cons.inj h
  exact ⟨hhead ▸ by simp [streamBitList], htail.symm⟩

/-! ### The bits still to send -/

/-- The bits of the local buffer from index `j` on, then those the channel stores (42_synthesizer.md rules
R153, R154). -/
def bitsFrom (j : Nat) (s : State) : List Bool :=
  ((List.range s.syn.bc.total.toNat).map (lbufBit · s)).drop j ++ streamBitList (stored s) s.fifo.tail

/-- The bits that come after the current one. -/
def pendingBits (s : State) : List Bool := bitsFrom (s.syn.bc.index.toNat + 1) s

theorem bitsFrom_cons {j : Nat} {s : State} (hj : j < s.syn.bc.total.toNat) :
    bitsFrom j s = lbufBit j s :: bitsFrom (j + 1) s := by
  simp only [bitsFrom]
  rw [List.drop_eq_getElem_cons (by simpa using hj)]
  simp

theorem bitsFrom_of_le {j : Nat} {s : State} (hj : s.syn.bc.total.toNat ≤ j) :
    bitsFrom j s = streamBitList (stored s) s.fifo.tail := by
  rw [bitsFrom, List.drop_eq_nil_of_le (by simpa using hj), List.nil_append]

/-- Of the state, the bits still to send are a function of the buffer and the channel. -/
theorem pendingBits_congr {s t : State} (hbc : t.syn.bc = s.syn.bc) (hlbuf : t.syn.lbuf = s.syn.lbuf)
    (hfifo : t.fifo = s.fifo) (hparams : t.params = s.params) : pendingBits t = pendingBits s := by
  simp only [pendingBits, bitsFrom, lbufBit, stored_congr hfifo hparams, hbc, hlbuf, hfifo]

/-- The bit that is loaded is the first of those still to send. -/
theorem bitsFrom_index {s : State} (h : s.syn.bc.index.toNat < s.syn.bc.total.toNat) :
    bitsFrom s.syn.bc.index.toNat s = (bitLoaded s).syn.curBit :: pendingBits (bitLoaded s) :=
  bitsFrom_cons h

theorem lbufBit_refill {s : State} (hwf : s.syn.lbuf.wf = true) {j : Nat} (hj : j < 8 * refillCount s) :
    lbufBit j (refill s) = streamBit (stored s) j := by
  have hbyte : j / 8 < refillCount s := by omega
  rw [lbufBit, read_lbuf_refill hwf, if_pos hbyte]
  rfl

/-- The number of bits a refill loads: none of its bytes' bits is lost to the Cursor's width. -/
theorem refill_total_toNat {s : State} (hi : Inv s) (heos : s.fifo.eos = true) (hn : 0 < refillCount s) :
    (refill s).syn.bc.total.toNat = 8 * refillCount s -
      if (stored s).length = refillCount s ∧ s.fifo.tail ≠ 0#3 then 8 - s.fifo.tail.toNat else 0 := by
  obtain ⟨-, -, -, hlbuf⟩ := hi.params
  have hle : refillCount s ≤ s.fifo.count := refillCount_le_count s
  have hbuf := refillCount_le_lbuf s
  simp only [refill_syn_bc, if_pos hn, padBits_fifoDrop hle, heos, true_and, stored_length, BitVec.toNat_ofNat]
  exact Nat.mod_eq_of_lt (by omega)

/-- A refill moves bits from the channel to the local buffer: those still to send stay the same
(42_synthesizer.md rules R153, R154). -/
theorem bitsFrom_zero_refill {s : State} (hi : Inv s) (heos : s.fifo.eos = true) (hn : 0 < refillCount s) :
    bitsFrom 0 (refill s) = streamBitList (stored s) s.fifo.tail := by
  obtain ⟨-, -, -, hwf, -⟩ := hi.syn
  have hle : refillCount s ≤ (stored s).length := by
    rw [stored_length]
    exact refillCount_le_count s
  have htail : (refill s).fifo.tail = s.fifo.tail := by rw [refill_fifo]; rfl
  rw [bitsFrom, List.drop_zero, refill_total_toNat hi heos hn, stored_refill, htail,
    streamBitList_split hle]
  congr 1
  refine List.map_congr_left fun j hj => lbufBit_refill hwf ?_
  have := List.mem_range.mp hj
  omega

/-- What an advance makes of the current bit and of those still to send, once the stream's end is stored:
a further sample, the next bit, or the completion when no bit is left. -/
theorem AdvanceEffect.bits {s s1 : State} {turn : TickTurn} (h : AdvanceEffect s turn s1) (hi : Inv s)
    (heos : s.fifo.eos = true) :
    (turn = .bit ∧ s.syn.bs.isDone = false ∧ s1.syn.bs = s.syn.bs.bump ∧
      s1.syn.curBit = s.syn.curBit ∧ pendingBits s1 = pendingBits s) ∨
    (turn = .bit ∧ s.syn.bs.isDone = true ∧ s1.syn.bs.index = 1#32 ∧
      pendingBits s = s1.syn.curBit :: pendingBits s1) ∨
    (turn = .completed ∧ s.syn.bs.isDone = true ∧ s1.fifo.count = 0 ∧ pendingBits s = []) := by
  cases h with
  | sample hbs => exact .inl ⟨rfl, hbs, rfl, rfl, rfl⟩
  | nextBit hbs hbc =>
    have hlt := index_succ_lt_of_not_isLast hbc
    have hindex := bump_index_of_not_isLast hbc
    refine .inr (.inl ⟨rfl, hbs, rfl, ?_⟩)
    rw [← bitsFrom_index (hindex.trans_lt hlt), pendingBits, ← hindex]
    rfl
  | firstBit hbs hbc hn =>
    have hpos : 0 < refillCount s := Nat.pos_of_ne_zero hn
    have hindex : (refill s).syn.bc.index.toNat = 0 := by
      rw [refill_syn_bc, if_pos hpos]
      rfl
    have hload : (refill s).syn.bc.index.toNat < (refill s).syn.bc.total.toNat := by
      rw [hindex, refill_total_toNat hi heos hpos]
      split_ifs with hpad
      · have := padding_lt hpad.2
        omega
      · omega
    refine .inr (.inl ⟨rfl, hbs, rfl, ?_⟩)
    rw [← bitsFrom_index hload, hindex, bitsFrom_zero_refill hi heos hpos, pendingBits,
      bitsFrom_of_le ((isLast_iff _).mp hbc)]
  | starved _ _ _ hwait => simp [heos] at hwait
  | completed hbs hbc hn =>
    have hempty : s.fifo.count = 0 := by
      by_contra hne
      exact (refillCount_pos hi (Nat.pos_of_ne_zero hne)).ne' hn
    have hnone : stored s = [] := List.length_eq_zero_iff.mp ((stored_length s).trans hempty)
    refine .inr (.inr ⟨rfl, hbs, ?_, ?_⟩)
    · simp [hempty]
    · rw [pendingBits, bitsFrom_of_le ((isLast_iff _).mp hbc), hnone, streamBitList_nil]

/-! ### The state after `k` ticks -/

/-- The records of the first `n` ticks of a transmission that START begins in `s` (42_synthesizer.md rules
R156, R157). -/
def transmission (s : State) (n : Nat) : List Obs :=
  (List.range n).map fun k => .sample
    (envelopeSample (streamBit (stored s) (k / s.reg.spb.toNat)) (BitVec.ofNat 32 k * s.reg.phaseInc))

theorem transmission_succ (s : State) (n : Nat) : transmission s (n + 1) = transmission s n ++ [.sample
    (envelopeSample (streamBit (stored s) (n / s.reg.spb.toNat)) (BitVec.ofNat 32 n * s.reg.phaseInc))] := by
  rw [transmission, List.range_succ, List.map_append]
  rfl

/-- `u` is reached after `k` ticks of the transmission that START begins in `s`, with `q` bits loaded
(`Sending.start`, `Sending.tick`). -/
structure Sending (s : State) (k q : Nat) (u : State) : Prop where
  inv : Inv u
  running : u.syn.state = .running
  eos : u.fifo.eos = true
  total : u.syn.bs.total = s.reg.spb
  inc : u.reg.phaseInc = s.reg.phaseInc
  phase : u.syn.phase = BitVec.ofNat 32 k * s.reg.phaseInc
  trace : u.trace = s.trace ++ transmission s k
  /-- Of `q` bits all samples are emitted but those the bit cursor still has. -/
  samples : k + s.reg.spb.toNat = q * s.reg.spb.toNat + u.syn.bs.index.toNat
  index_pos : 0 < u.syn.bs.index.toNat
  curBit : 0 < q → u.syn.curBit = streamBit (stored s) (q - 1)
  pending : pendingBits u = (streamBitList (stored s) s.fifo.tail).drop q
  count_le : u.fifo.count ≤ s.fifo.count
  progress : u.reg.progress = BitVec.ofNat 32 (s.fifo.count - u.fifo.count)

theorem Sending.start {s : State} (hi : Inv s) (hopen : s.fifo.isOpen = true) (hspb : s.reg.spb ≠ 0#32)
    (heos : s.fifo.eos = true) : Sending s 0 0 (startTransmission s) where
  inv := inv_startTransmission hi hopen hspb
  running := rfl
  eos := heos
  total := rfl
  inc := rfl
  phase := by simp
  trace := by simp [transmission]
  samples := by simp
  index_pos := by
    rw [startTransmission_syn]
    exact Nat.pos_of_ne_zero fun h => hspb (BitVec.eq_of_toNat_eq h)
  curBit := fun h => absurd h (Nat.lt_irrefl 0)
  pending := bitsFrom_of_le (Nat.zero_le _)
  count_le := le_rfl
  progress := by simp

theorem Sending.index_le {s u : State} {k q : Nat} (h : Sending s k q u) :
    u.syn.bs.index.toNat ≤ s.reg.spb.toNat := by
  obtain ⟨hlegal, -⟩ := h.inv.syn
  exact h.total ▸ BitVec.le_def.mp hlegal

/-- The bit cursor's end in numbers. -/
theorem Sending.isDone_iff {s u : State} {k q : Nat} (h : Sending s k q u) :
    u.syn.bs.isDone = true ↔ k = q * s.reg.spb.toNat := by
  have hle := h.index_le
  have hsamples := h.samples
  rw [Machine.isDone_iff, h.total]
  omega

/-- A tick of the run counts the bytes it takes. -/
theorem Sending.tick_progress {s u t : State} {k q : Nat} (h : Sending s k q u) (ht : exec .tick u = .next t) :
    t.fifo.count ≤ s.fifo.count ∧ t.reg.progress = BitVec.ofNat 32 (s.fifo.count - t.fifo.count) := by
  obtain ⟨hcount, hprogress⟩ := exec_tick_progress ht
  have hle := h.count_le
  refine ⟨hcount.trans hle, ?_⟩
  rw [hprogress, h.progress, ← BitVec.ofNat_add]
  congr 1
  omega

/-- When no bit is left, the ticks are spent. -/
theorem Sending.ticks_spent {s u : State} {k q : Nat} (h : Sending s k q u) (hbs : u.syn.bs.isDone = true)
    (hpend : pendingBits u = []) : streamBits (stored s) s.fifo.tail * s.reg.spb.toNat ≤ k := by
  have hq : streamBits (stored s) s.fifo.tail ≤ q := by
    rw [h.pending, List.drop_eq_nil_iff, streamBitList_length] at hpend
    exact hpend
  rw [h.isDone_iff.mp hbs]
  exact Nat.mul_le_mul_right _ hq

/-- While ticks are left, the next one is a sample of some bit `p`. -/
theorem Sending.advance {s u u1 : State} {k q : Nat} {turn : TickTurn} (h : Sending s k q u)
    (he : AdvanceEffect u turn u1) (hk : k < streamBits (stored s) s.fifo.tail * s.reg.spb.toNat) :
    turn = .bit ∧ ∃ p, k + 1 = p * s.reg.spb.toNat + u1.syn.bs.index.toNat ∧
      0 < u1.syn.bs.index.toNat ∧ u1.syn.curBit = streamBit (stored s) p ∧
      pendingBits u1 = (streamBitList (stored s) s.fifo.tail).drop (p + 1) := by
  have hsamples := h.samples
  have hpending := h.pending
  obtain ⟨rfl, hbs, hbump, hcur, hpend⟩ | ⟨rfl, hbs, hindex, hpend⟩ | ⟨-, hbs, -, hpend⟩ :=
    he.bits h.inv h.eos
  · have hlt := index_lt_of_not_isDone hbs
    have hnext : u1.syn.bs.index.toNat = u.syn.bs.index.toNat + 1 := by
      rw [hbump, bump_index_toNat]
      omega
    rw [h.total] at hlt
    obtain _ | p := q
    · omega
    · rw [Nat.succ_mul] at hsamples
      exact ⟨rfl, p, by omega, by omega, hcur.trans (h.curBit (Nat.succ_pos p)), hpend.trans hpending⟩
  · have hspent : k = q * s.reg.spb.toNat := h.isDone_iff.mp hbs
    obtain ⟨hbit, hrest⟩ := streamBitList_drop_cons (hpending.symm.trans hpend)
    have hone : u1.syn.bs.index.toNat = 1 := congrArg BitVec.toNat hindex
    exact ⟨rfl, q, by omega, by omega, hbit, hrest⟩
  · exact absurd hk (Nat.not_lt.mpr (h.ticks_spent hbs hpend))

/-- While ticks are left, the next one keeps the invariant of the run. -/
theorem Sending.tick {s u : State} {k q : Nat} (h : Sending s k q u)
    (hk : k < streamBits (stored s) s.fifo.tail * s.reg.spb.toNat) :
    ∃ q' t, exec .tick u = .next t ∧ Sending s (k + 1) q' t := by
  obtain ⟨turn, u1, he, ht⟩ := exec_tick_of_inv h.inv h.running
  obtain ⟨rfl, p, hsamples, hpos, hbit, hpend⟩ := h.advance he hk
  obtain ⟨-, htrace, hstate⟩ := he.frame
  obtain ⟨heos, -, -⟩ := he.fifo_frame
  obtain ⟨hphase, -, htotal⟩ := he.syn_frame
  obtain ⟨hcount, hprogress⟩ := h.tick_progress ht
  have hinc : u1.reg.phaseInc = s.reg.phaseInc := by
    rw [he.reg_eq]
    exact h.inc
  have hbits : k / s.reg.spb.toNat = p := by
    obtain ⟨hlegal, -⟩ := (inv_advance h.inv h.running he).syn
    have hle : u1.syn.bs.index.toNat ≤ s.reg.spb.toNat := (htotal.trans h.total) ▸ BitVec.le_def.mp hlegal
    refine Nat.div_eq_of_lt_le (by omega) ?_
    rw [Nat.succ_mul]
    omega
  have hbs : (progressTick (tickEmit .bit u1)).syn.bs = u1.syn.bs := by simp [tickEmit_syn]
  refine ⟨p + 1, _, ht, ?_⟩
  exact {
    inv := inv_exec h.inv ht
    running := by simp [hstate, h.running]
    eos := by simp [heos, h.eos]
    total := by rw [hbs, htotal, h.total]
    inc := by simp [tickEmit_reg, hinc]
    phase := by
      rw [BitVec.ofNat_add, BitVec.add_mul, BitVec.one_mul]
      simp [tickEmit_syn, hphase, h.phase, hinc]
    trace := by
      rw [transmission_succ, ← List.append_assoc, ← h.trace, hbits, ← hbit, ← h.phase, ← hphase]
      simp [tickEmit_trace, htrace]
    samples := by
      rw [hbs, Nat.succ_mul]
      omega
    index_pos := hbs ▸ hpos
    curBit := fun _ => by simpa [tickEmit_syn] using hbit
    pending := by
      rw [← hpend]
      exact pendingBits_congr (by simp [tickEmit_syn]) (by simp [tickEmit_syn]) (by simp) (by simp)
    count_le := hcount
    progress := hprogress }

/-- What the whole run leaves, after `n` active ticks (42_synthesizer.md rules R155, R158, R161). -/
structure Transmitted (s : State) (n : Nat) (t : State) : Prop where
  trace : t.trace = s.trace ++ transmission s n ++ [.sample (silence false)]
  state : t.syn.state = .done
  done : t.reg.done = true
  count : t.fifo.count = 0
  progress : t.reg.progress = BitVec.ofNat 32 s.fifo.count
  progSnap : t.reg.progSnap = t.reg.progress

/-- With the ticks of every bit spent, the bit cursor is at its end and no bit is left: the number of
samples emitted is a multiple of SPB. -/
theorem Sending.all_sent {s u : State} {n q : Nat} (h : Sending s n q u)
    (hn : n = streamBits (stored s) s.fifo.tail * s.reg.spb.toNat) :
    u.syn.bs.isDone = true ∧ pendingBits u = [] := by
  have hsamples := h.samples
  have hpos := h.index_pos
  have hle := h.index_le
  have hdone : u.syn.bs.isDone = true := by
    rw [h.isDone_iff]
    by_contra hne
    have hmod : (n + s.reg.spb.toNat) % s.reg.spb.toNat = 0 := by simp [hn]
    rw [hsamples, Nat.mul_add_mod_self_right, Nat.mod_eq_of_lt (by omega)] at hmod
    omega
  have hq : streamBits (stored s) s.fifo.tail = q :=
    Nat.eq_of_mul_eq_mul_right (hpos.trans_le hle) (hn.symm.trans (h.isDone_iff.mp hdone))
  refine ⟨hdone, ?_⟩
  rw [h.pending, ← hq, ← streamBitList_length, List.drop_length]

/-- With the ticks of every bit spent, the next one completes. -/
theorem Sending.last_tick {s u : State} {n q : Nat} (h : Sending s n q u)
    (hn : n = streamBits (stored s) s.fifo.tail * s.reg.spb.toNat) :
    ∃ t, exec .tick u = .next t ∧ Transmitted s n t := by
  obtain ⟨turn, u1, he, ht⟩ := exec_tick_of_inv h.inv h.running
  obtain ⟨hdone, hnone⟩ := h.all_sent hn
  obtain ⟨-, hbs, -⟩ | ⟨-, -, -, hpend⟩ | ⟨rfl, -, hempty, -⟩ := he.bits h.inv h.eos
  · simp [hdone] at hbs
  · simp [hnone] at hpend
  obtain ⟨-, htrace, -⟩ := he.frame
  have hcount : (progressTick (tickEmit .completed u1)).fifo.count = 0 := by simp [hempty]
  obtain ⟨-, hprogress⟩ := h.tick_progress ht
  refine ⟨_, ht, ?_⟩
  exact {
    trace := by simp [tickEmit_trace, htrace, h.trace]
    state := by simp
    done := by simp [tickEmit_reg]
    count := hcount
    progress := by rw [hprogress, hcount, Nat.sub_zero]
    progSnap := by simp [progressTick_reg_progSnap, tickEmit_reg] }

theorem runTicks_succ {n : Nat} {s t : State} (h : exec .tick s = .next t) :
    runTicks (n + 1) s = runTicks n t := by
  simp only [runTicks, h]

/-- From any point of the run the ticks that are left finish it, by induction on their number. -/
theorem Sending.finishes {s u : State} {m k q : Nat} (h : Sending s k q u)
    (hk : k + m = streamBits (stored s) s.fifo.tail * s.reg.spb.toNat) :
    ∃ t, runTicks (m + 1) u = some t ∧ Transmitted s (k + m) t := by
  induction m generalizing k q u with
  | zero =>
    obtain ⟨t, ht, hdone⟩ := h.last_tick hk
    exact ⟨t, runTicks_succ ht, hdone⟩
  | succ m ih =>
    obtain ⟨q', v, hv, hnext⟩ := h.tick (by omega)
    have hsum : k + (m + 1) = k + 1 + m := by omega
    rw [hsum] at hk ⊢
    rw [runTicks_succ hv]
    exact ih hnext hk

end Sys2Proof.Machine
end

section
/-! The statements of 42_synthesizer.md. -/

namespace Sys2Proof.Machine

/-! ### The tick -/

/-- Settles O30. -/
theorem idleTickEmitsSilence : Obligations.IdleTickEmitsSilence := fun _ hidle => exec_tick_idle hidle

/-- Settles O31, along the five ways the tick advances. -/
theorem runningTickFollowsRule : Obligations.RunningTickFollowsRule := by
  intro s hi hrun
  obtain ⟨hrd, -⟩ := hi.fifo
  obtain ⟨-, -, -, hwf, -⟩ := hi.syn
  obtain ⟨turn, s1, he, ht⟩ := exec_tick_of_inv hi hrun
  have hdone : s.syn.bs.isDone = true ↔ ¬ s.syn.bs.index < s.syn.bs.total := by
    rw [isDone_iff, BitVec.lt_def, Nat.not_lt]
  have hlast : s.syn.bc.isLast = true ↔ ¬ s.syn.bc.index.toNat + 1 < s.syn.bc.total.toNat := by
    rw [isLast_iff, Nat.not_lt]
  intro n pad j nextBit firstBit
  have hn : refillCount s ≤ s.fifo.count := refillCount_le_count s
  have hcount : 0 < s.fifo.count ↔ refillCount s ≠ 0 :=
    ⟨fun h => (refillCount_pos hi h).ne', fun h => by omega⟩
  rw [ht]
  congr 2
  cases he with
  | sample hbs =>
    rw [if_pos (by simpa [hbs] using hdone), tickEmit_bit]
    rfl
  | nextBit hbs hbc =>
    rw [if_neg (hdone.mp hbs), if_pos (by simpa [hbc] using hlast)]
    have hindex : s.syn.bc.bump.index.toNat = j := bump_index_of_not_isLast hbc
    exact tickEmit_bitLoaded (by rw [hindex]; rfl)
  | firstBit hbs hbc hpos =>
    rw [if_neg (hdone.mp hbs), if_neg (hlast.mp hbc), if_pos (hcount.mpr hpos)]
    have hpos := Nat.pos_of_ne_zero hpos
    have hbit : lbufBit (refill s).syn.bc.index.toNat (refill s) = firstBit := by
      rw [refill_syn_bc, if_pos hpos]
      exact lbufBit_zero_refill hwf hpos
    rw [tickEmit_bitLoaded hbit, refill_of_pos hpos, padBits_fifoDrop hn]
    rfl
  | starved hbs hbc hzero hwait =>
    rw [if_neg (hdone.mp hbs), if_neg (hlast.mp hbc), if_neg (by simp [hcount, hzero]),
      if_pos (by simpa using hwait), tickEmit_starved, refill_eq_self hrd hzero]
    rfl
  | completed hbs hbc hzero hend =>
    rw [if_neg (hdone.mp hbs), if_neg (hlast.mp hbc), if_neg (by simp [hcount, hzero]),
      if_neg (by simpa using hend), tickEmit_completed, refill_eq_self hrd hzero]
    rfl

/-- Settles O33: a tick stays RUNNING exactly if it does not complete, and the emission's record and phase
follow the turn (`tickEmit_trace`, `tickEmit_syn`). -/
theorem carrierFollowsPhase : Obligations.CarrierFollowsPhase := by
  refine ⟨fun p => ⟨envelopeSample_on p, rfl⟩, fun s t hrun h => ?_⟩
  obtain ⟨turn, s1, he, rfl⟩ := exec_tick_running hrun h
  obtain ⟨-, htrace, hstate⟩ := he.frame
  obtain ⟨hphase, -⟩ := he.syn_frame
  simp only [progressTick_syn_state, progressTick_syn_phase, progressTick_syn_curBit,
    progressTick_syn_starved, progressTick_trace, tickEmit_trace, tickEmit_syn, htrace, hstate, hphase,
    he.reg_eq]
  by_cases hc : turn = .completed
  · simp [hc, silence]
  · simp [hc, hrun]

/-- Settles O34: `ProgressTick()` runs after the emission, so it counts the tick whether or not that has set
DONE; the three cases of BLOCK are those of its definition. -/
theorem progressEventsFollowBlock : Obligations.ProgressEventsFollowBlock := by
  refine ⟨fun s => rfl, fun s t hrun h => ?_⟩
  obtain ⟨turn, s1, he, rfl⟩ := exec_tick_running hrun h
  obtain ⟨-, -, hstate⟩ := he.frame
  obtain ⟨-, hblk, -⟩ := he.syn_frame
  have hrunning : (progressTick (tickEmit turn s1)).syn.state = .running ↔ turn ≠ .completed := by
    rw [progressTick_syn_state, tickEmit_syn_state, hstate, hrun]
    split_ifs with hc <;> simp [hc]
  simp only [ne_eq, hrunning, progressTick_syn_blk, progressTick_reg_done, progressTick_reg_prog,
    progressTick_reg_progSnap, progressTick_reg_progress, tickEmit_syn, tickEmit_reg, hblk, he.reg_eq]
  by_cases hc : turn = .completed
  · refine ⟨absurd hc, fun _ => by simp [hc], fun hzero => by simp [hc, hzero],
      fun hblock hinside => by simp [hc, hblock, hinside], fun hblock hend => by simp [hc, hblock, hend]⟩
  · refine ⟨fun _ => by simp [hc], fun h => absurd hc h, fun hzero => by simp [hc, hzero],
      fun hblock hinside => by simp [hc, hblock, hinside], fun hblock hend => by simp [hc, hblock, hend]⟩

/-- Settles O35: the advance is total in legal states (`exec_tick_ok`). -/
theorem tickAlwaysHasStep : Obligations.TickAlwaysHasStep := by
  intro s hi
  obtain ⟨t, ht⟩ := exec_tick_ok hi
  exact ⟨t, ht, exec_tick_errors ht⟩

/-! ### Transitions and counts -/

/-- Settles O36: START, STOP and TICK one by one; every other transaction keeps the record (`exec_keeps`). -/
theorem synStateTransitions : Obligations.SynStateTransitions := by
  refine ⟨fun i s t h hne => ?_, fun s => ⟨congrArg Syn.state (perform_keeps s).syn, rfl⟩⟩
  by_cases hstart : i = .wrCmdStart
  · subst hstart
    obtain hkeeps | ⟨hrun, rfl⟩ := exec_start_cases h
    · exact absurd (congrArg Syn.state hkeeps.syn) hne
    · exact .inl ⟨rfl, hrun, rfl⟩
  by_cases hstop : i = .wrCmdStop
  · subst hstop
    cases h
    exact .inr (.inr ⟨rfl, congrArg Syn.state (stopTransmission_syn s)⟩)
  by_cases htick : i = .tick
  · subst htick
    exact .inr (.inl ⟨rfl, (exec_tick_state h).resolve_left hne⟩)
  · exact absurd (congrArg Syn.state (exec_keeps h hstart hstop htick).syn) hne

/-- Settles O38: START and TICK one by one; STOP and every other transaction keep PROGRESS. -/
theorem progressCountsBytesTaken : Obligations.ProgressCountsBytesTaken := by
  refine ⟨fun i s t h => ?_, fun s => ⟨(perform_keeps s).progress, rfl⟩⟩
  by_cases hstart : i = .wrCmdStart
  · subst hstart
    obtain hkeeps | ⟨hrun, rfl⟩ := exec_start_cases h
    · exact .inr (.inr ⟨by simp, fun _ => congrArg Syn.state hkeeps.syn, hkeeps.progress⟩)
    · exact .inl ⟨rfl, hrun, rfl, rfl⟩
  by_cases htick : i = .tick
  · subst htick
    exact .inr (.inl ⟨rfl, exec_tick_progress h⟩)
  have hprogress : t.reg.progress = s.reg.progress := by
    by_cases hstop : i = .wrCmdStop
    · subst hstop
      cases h
      rw [stopTransmission_reg]
    · exact (exec_keeps h hstart hstop htick).progress
  exact .inr (.inr ⟨htick, fun hi => absurd hi hstart, hprogress⟩)

/-- Settles O54: what decodes is well formed, and that runs in a legal state (`exec_ok`). -/
theorem legalStatesNeverFault : Obligations.LegalStatesNeverFault := by
  intro s hi
  refine ⟨fun f hf => ?_, step_of_inv hi⟩
  obtain ⟨t, ht⟩ | ⟨why, hwhy⟩ := step_of_inv hi
  · cases ht.symm.trans hf
  · cases hwhy.symm.trans hf

/-- Settles O37: the run keeps `Sending` tick by tick (`Sending.tick`) until its last tick completes. -/
theorem wholeStreamIsTransmitted : Obligations.WholeStreamIsTransmitted := by
  intro s s1 hi hidle hopen hspb heos hcount hstart B spb
  obtain rfl : startTransmission s = s1 := by
    have hready : exec .wrCmdStart s = .next (startTransmission s) := by
      change execWrCmdStart s = _
      rw [execWrCmdStart, if_neg hidle, if_neg (by simp [hopen]), if_neg hspb]
    exact Host.Outcome.next.inj (hready.symm.trans hstart)
  have hB : 1 ≤ B := streamBits_pos (by rwa [stored_length]) _
  obtain ⟨t, ht, hsent⟩ := (Sending.start hi hopen hspb heos).finishes (Nat.zero_add (B * spb))
  rw [Nat.zero_add] at hsent
  exact ⟨hB, t, ht, hsent.trace, hsent.state, hsent.done, hsent.count, hsent.progress, hsent.progSnap⟩

end Sys2Proof.Machine
end

section
/-! SUPPORT. The sticky bits and ERR_INFO: what each transaction, a perform and a step do to them
(60_exceptions.md rules R180 to R185). -/

namespace Sys2Proof.Machine

/-! ### The sticky bits by their position in STATUS -/

/-- The sticky bit at bit `n` of STATUS (10_state.md rule R28); no other position holds one. -/
def stickyBit (n : Nat) (r : Reg) : Bool :=
  match n with
  | 1 => r.done
  | 2 => r.prog
  | 8 => r.rdErr
  | 9 => r.cmdErr
  | 10 => r.accErr
  | _ => false

/-- Write one to clear (40_control_port.md rule R111). -/
theorem stickyBit_ackStatus (n : Nat) (d : Word) (s : State) :
    stickyBit n (ackStatus d s).reg = (stickyBit n s.reg && !d.getLsbD n) := by
  unfold stickyBit
  split <;> rfl

theorem stickyBit_raiseCmdErr {n : Nat} {s : State} (c : CmdCause) (h : stickyBit n s.reg = true) :
    stickyBit n (raiseCmdErr c s).reg = true := by
  unfold stickyBit at h ⊢
  split at h
  exacts [h, h, h, rfl, h, h]

theorem stickyBit_raiseAccErr {n : Nat} {s : State} (c : AccCause) (off : Byte)
    (h : stickyBit n s.reg = true) : stickyBit n (raiseAccErr c off s).reg = true := by
  unfold stickyBit at h ⊢
  split at h
  exacts [h, h, h, h, rfl, h]

/-! ### The codes -/

theorem cmdCode_mem (c : CmdCause) : cmdCode c ∈ [1#4, 2#4, 3#4, 4#4, 5#4] := by
  cases c <;> simp [cmdCode]

theorem accCode_mem (c : AccCause) : accCode c ∈ [8#4, 9#4, 10#4, 11#4] := by
  cases c <;> simp [accCode]

/-! ### What records no error and clears no sticky bit -/

/-- From one register record to the next, every sticky bit that was set stays set and no error is
recorded. -/
structure KeepsErrors (r r' : Reg) : Prop where
  done : r.done = true → r'.done = true
  prog : r.prog = true → r'.prog = true
  rdErr : r.rdErr = true → r'.rdErr = true
  cmdErr : r'.cmdErr = r.cmdErr
  accErr : r'.accErr = r.accErr
  errCode : r'.errCode = r.errCode
  errOff : r'.errOff = r.errOff

theorem KeepsErrors.refl (r : Reg) : KeepsErrors r r := ⟨id, id, id, rfl, rfl, rfl, rfl⟩

theorem KeepsErrors.stickyBit_kept {r r' : Reg} (h : KeepsErrors r r') {n : Nat}
    (hn : stickyBit n r = true) : stickyBit n r' = true := by
  unfold stickyBit at hn ⊢
  split at hn
  exacts [h.done hn, h.prog hn, h.rdErr hn, h.cmdErr.trans hn, h.accErr.trans hn, hn]

/-- A TICK only ever sets DONE and PROG (42_synthesizer.md rules R155, R159). -/
theorem exec_tick_keepsErrors {s t : State} (h : exec .tick s = .next t) : KeepsErrors s.reg t.reg := by
  by_cases hrun : s.syn.state = .running
  · obtain ⟨hcmd, hacc, hcode, hoff⟩ := exec_tick_errors h
    obtain ⟨turn, s1, he, rfl⟩ := exec_tick_running hrun h
    refine ⟨?_, ?_, ?_, hcmd, hacc, hcode, hoff⟩
    all_goals
      simp only [progressTick_reg_done, progressTick_reg_prog, progressTick_reg_rdErr, tickEmit_reg, he.reg_eq]
      split_ifs <;> simp
  · cases (exec_tick_idle hrun).symm.trans h
    exact .refl _

theorem issuePush_reg {r : PushReq} {s t : State} (h : issuePush r s = .next t) : t.reg = s.reg := by
  obtain ⟨-, ⟨-, rfl⟩ | ⟨-, -, rfl⟩ | ⟨-, -, rfl⟩⟩ := issuePush_cases h <;> rfl

/-- The end of a stream sets RD_ERR or leaves it (41_producer_port.md rule R133). -/
theorem endStream_keepsErrors (tail : BitVec 3) (err : Bool) (s : State) :
    KeepsErrors s.reg (endStream tail err s).reg :=
  ⟨id, id, fun h => by simp [h], rfl, rfl, rfl, rfl⟩

theorem performReq_keepsErrors (r : PushReq) (s : State) : KeepsErrors s.reg (performReq r s).reg := by
  obtain ⟨-, hq⟩ | ⟨-, -, hq⟩ | ⟨-, -, hq⟩ := performReq_cases r s <;> rw [hq]
  · exact .refl _
  all_goals
    split_ifs
    exacts [endStream_keepsErrors r.tail r.err s, .refl _]

theorem perform_keepsErrors (s : State) : KeepsErrors s.reg (perform s).reg := by
  obtain ⟨-, hq⟩ | ⟨-, r, -, -, hq⟩ := perform_cases s <;> rw [hq]
  · exact .refl _
  · exact performReq_keepsErrors r { s with prd := { pending := none } }

/-! ### Every transaction -/

/-- What a transaction can do to the sticky bits and ERR_INFO, a refusal as the whole state it leaves
(`exec_errorEffect` ties it to `exec`). -/
inductive ErrorEffect (i : Instr) (s : State) : State → Prop where
  /-- No error recorded, no sticky bit cleared. -/
  | kept {t : State} (h : KeepsErrors s.reg t.reg) : ErrorEffect i s t
  /-- A write to STATUS (40_control_port.md rule R111). -/
  | acked (d : Word) (hi : i = .wrStatus d) : ErrorEffect i s (ackStatus d s)
  /-- A refused command (60_exceptions.md rule R181). -/
  | cmdErr (c : CmdCause) : ErrorEffect i s (raiseCmdErr c s)
  /-- A refused write access (60_exceptions.md rule R181). -/
  | accErr (c : AccCause) (off : Byte) (hi : i ≠ .rdInvalid off) : ErrorEffect i s (raiseAccErr c off s)
  /-- A refused read access, which still returns a word (40_control_port.md rule R105). -/
  | readErr (c : AccCause) (off : Byte) (hi : i = .rdInvalid off) :
      ErrorEffect i s (observe (.read 0#32) (raiseAccErr c off s))

theorem execWrCmdOpen_errorEffect {s t : State} (h : execWrCmdOpen s = .next t) :
    ErrorEffect .wrCmdOpen s t := by
  unfold execWrCmdOpen at h
  split_ifs at h <;> cases h
  exacts [.cmdErr _, .kept (openChannel_reg s ▸ .refl _)]

theorem execWrCmdStart_errorEffect {s t : State} (h : execWrCmdStart s = .next t) :
    ErrorEffect .wrCmdStart s t := by
  unfold execWrCmdStart at h
  split_ifs at h <;> cases h
  exacts [.cmdErr _, .cmdErr _, .cmdErr _, .kept ⟨id, id, id, rfl, rfl, rfl, rfl⟩]

theorem execWrCmdReserved_errorEffect {d : Word} {s t : State} (h : execWrCmdReserved d s = .next t) :
    ErrorEffect (.wrCmdReserved d) s t := by
  unfold execWrCmdReserved at h
  split_ifs at h
  cases h
  exact .cmdErr _

theorem configWrite_errorEffect {i : Instr} {off : Byte} {r : Reg} {s t : State}
    (h : configWrite off r s = .next t) (hi : i ≠ .rdInvalid off) (hr : KeepsErrors s.reg r) :
    ErrorEffect i s t := by
  obtain ⟨-, rfl⟩ | ⟨-, rfl⟩ := configWrite_cases h
  exacts [.accErr _ _ hi, .kept hr]

theorem execWrInvalid_errorEffect {off : Byte} {d : Word} {s t : State} (h : execWrInvalid off d s = .next t) :
    ErrorEffect (.wrInvalid off d) s t := by
  unfold execWrInvalid at h
  split at h <;> cases h
  exact .accErr _ _ nofun

theorem execRdInvalid_errorEffect {off : Byte} {s t : State} (h : execRdInvalid off s = .next t) :
    ErrorEffect (.rdInvalid off) s t := by
  unfold execRdInvalid at h
  split at h <;> cases h
  exact .readErr _ _ rfl

theorem exec_errorEffect {i : Instr} {s t : State} (h : exec i s = .next t) : ErrorEffect i s t := by
  cases i with
  | wrCmdOpen => exact execWrCmdOpen_errorEffect h
  | wrCmdStart => exact execWrCmdStart_errorEffect h
  | wrCmdStop =>
    cases h
    exact .kept (stopTransmission_reg s ▸ .refl _)
  | wrCmdReserved d => exact execWrCmdReserved_errorEffect h
  | wrStatus d =>
    cases h
    exact .acked d rfl
  | wrIrqEn d =>
    cases h
    exact .kept ⟨id, id, id, rfl, rfl, rfl, rfl⟩
  | wrConfig | wrSpb | wrPhaseInc | wrBlock =>
    exact configWrite_errorEffect h nofun ⟨id, id, id, rfl, rfl, rfl, rfl⟩
  | wrProgress | wrProgSnap | wrFifoLevel | wrParams | wrErrInfo =>
    cases h
    exact .accErr _ _ nofun
  | wrInvalid off d => exact execWrInvalid_errorEffect h
  | rdInvalid off => exact execRdInvalid_errorEffect h
  | push | pushLast => exact .kept (issuePush_reg h ▸ .refl _)
  | tick => exact .kept (exec_tick_keepsErrors h)
  | _ =>
    cases h
    exact .kept (.refl _)

/-! ### The fall of a sticky bit -/

/-- Only a write of 1 to its STATUS bit clears a sticky bit (60_exceptions.md rules R183, R185). -/
theorem ErrorEffect.stickyBit_falls {i : Instr} {s t : State} (h : ErrorEffect i s t) {n : Nat}
    (hs : stickyBit n s.reg = true) (ht : stickyBit n t.reg = false) : ∃ d, i = .wrStatus d ∧ d.getLsbD n = true := by
  cases h with
  | kept h => cases (h.stickyBit_kept hs).symm.trans ht
  | acked d hi => exact ⟨d, hi, by simpa [stickyBit_ackStatus, hs] using ht⟩
  | cmdErr c => cases (stickyBit_raiseCmdErr c hs).symm.trans ht
  | accErr c off | readErr c off => cases (stickyBit_raiseAccErr c off hs).symm.trans ht

theorem nextEvent_reg {s s1 : State} {e : Event} (h : nextEvent s = some (e, s1)) : s1.reg = s.reg := by
  obtain ⟨-, rest, -, rfl⟩ := nextEvent_some h
  rfl

/-- Over a step of any agent, the reset is the only other way (70_reset_and_hazards.md rule R201). -/
theorem step_stickyBit_falls {s t : State} (h : step s = .next t) {n : Nat} (hs : stickyBit n s.reg = true)
    (ht : stickyBit n t.reg = false) : clearsSticky n s = true := by
  obtain ⟨-, rfl⟩ | ⟨s1, hn, rfl⟩ | ⟨s1, hn, -⟩ | ⟨x, s1, i, hn, hd, hx⟩ := step_cases h
  · cases hs.symm.trans ht
  · rw [← nextEvent_reg hn] at hs
    cases ((perform_keepsErrors s1).stickyBit_kept hs).symm.trans ht
  · exact (clearsSticky_iff n s).mpr (.inl ⟨s1, hn⟩)
  · rw [← nextEvent_reg hn] at hs
    obtain ⟨d, rfl, hbit⟩ := (exec_errorEffect hx).stickyBit_falls hs ht
    exact (clearsSticky_iff n s).mpr (.inr ⟨x, s1, d, hn, hd, hbit⟩)

end Sys2Proof.Machine
end

section
/-! The statements of 60_exceptions.md. -/

namespace Sys2Proof.Machine

/-- Settles O44: a transaction's effect on the errors is one of `ErrorEffect`. -/
theorem errorsAreAllOrNothing : Obligations.ErrorsAreAllOrNothing := by
  intro i s t h
  cases exec_errorEffect h with
  | kept h => exact .inl ⟨h.errCode, h.errOff, h.cmdErr.symm.trans, h.accErr.symm.trans⟩
  | acked d => exact .inl ⟨rfl, rfl, Bool.and_elim_left, Bool.and_elim_left⟩
  | cmdErr c => exact .inr (.inl ⟨cmdCode c, cmdCode_mem c, rfl⟩)
  | accErr c off hi => exact .inr (.inr ⟨accCode c, accCode_mem c, off, by rw [if_neg hi]; rfl⟩)
  | readErr c off hi => exact .inr (.inr ⟨accCode c, accCode_mem c, off, by rw [if_pos hi]; rfl⟩)

/-- Settles O45: the five bits are `stickyBit` at their five positions. -/
theorem stickyBitsFallOnlyByAckOrReset : Obligations.StickyBitsFallOnlyByAckOrReset := by
  refine ⟨fun s t h => ?_, fun i s t h => ?_, fun s => ?_⟩
  · have hfall (n : Nat) : stickyBit n s.reg = true → stickyBit n t.reg = false → clearsSticky n s = true :=
      step_stickyBit_falls h
    exact ⟨hfall 1, hfall 2, hfall 8, hfall 9, hfall 10⟩
  · have hfall (n : Nat) : stickyBit n s.reg = true → stickyBit n t.reg = false →
        ∃ d, i = .wrStatus d ∧ d.getLsbD n = true := (exec_errorEffect h).stickyBit_falls
    exact ⟨hfall 1, hfall 2, hfall 8, hfall 9, hfall 10⟩
  · have hkept (n : Nat) : stickyBit n s.reg = true → stickyBit n (perform s).reg = true :=
      (perform_keepsErrors s).stickyBit_kept
    exact ⟨hkept 1, hkept 2, hkept 8, hkept 9, hkept 10⟩

end Sys2Proof.Machine
end

section
/-! SUPPORT. What the reset step is, and what each step does to the configuration registers
(70_reset_and_hazards.md rules R201, R204). -/

namespace Sys2Proof.Machine

/-! ### The reset step -/

/-- Reset is always enabled (70_reset_and_hazards.md rule R200). -/
theorem step_reset {s : State} {rest : List Event} (hin : s.inbox = .reset :: rest) :
    step s = .next (resetBlock { s with inbox := rest }) := by
  simp only [step, nextEvent_head hin rfl]

theorem irq_resetBlock (s : State) : irq (resetBlock s) = false := irq_resetWith s.params

/-! ### The configuration registers -/

/-- The registers that are not reconfigured while RUNNING: SPB, PHASE_INC, BLOCK and the policy
(70_reset_and_hazards.md rule R204 d). -/
def Reg.configuration (r : Reg) : Word × Word × Word × Bool := (r.spb, r.phaseInc, r.block, r.starvePolicy)

theorem configuration_eq_iff (r r' : Reg) : r'.configuration = r.configuration ↔
    r'.spb = r.spb ∧ r'.phaseInc = r.phaseInc ∧ r'.block = r.block ∧ r'.starvePolicy = r.starvePolicy := by
  simp only [Reg.configuration, Prod.mk.injEq]

/-- A configuration write is the only such transaction that can change these registers, and RUNNING
refuses it (40_control_port.md rules R113 to R116). -/
theorem ExecEffect.configuration_eq {s t : State} (h : ExecEffect s t) (hrun : s.syn.state = .running) :
    t.reg.configuration = s.reg.configuration := by
  cases h with
  | configured _ _ _ _ hstate => exact absurd hrun hstate
  | opened => rw [openChannel_reg]
  | stopped => rw [stopTransmission_reg]
  | _ => rfl

theorem progressTick_configuration (s : State) :
    (progressTick s).reg.configuration = s.reg.configuration := by
  simp [configuration_eq_iff]

theorem tickEmit_configuration (turn : TickTurn) (s : State) :
    (tickEmit turn s).reg.configuration = s.reg.configuration := by
  rw [tickEmit_reg]
  split_ifs <;> rfl

/-- A TICK reads these registers and never writes them (42_synthesizer.md rule R150). -/
theorem exec_tick_configuration {s t : State} (h : exec .tick s = .next t) :
    t.reg.configuration = s.reg.configuration := by
  by_cases hrun : s.syn.state = .running
  · obtain ⟨turn, s1, he, rfl⟩ := exec_tick_running hrun h
    rw [progressTick_configuration, tickEmit_configuration, he.reg_eq]
    rfl
  · cases (exec_tick_idle hrun).symm.trans h
    rfl

theorem exec_configuration {i : Instr} {s t : State} (h : exec i s = .next t)
    (hrun : s.syn.state = .running) : t.reg.configuration = s.reg.configuration := by
  by_cases htick : i = .tick
  · subst htick
    exact exec_tick_configuration h
  · exact (exec_effect h htick).configuration_eq hrun

/-- Of the registers a perform reaches RD_ERR alone (41_producer_port.md rule R133). -/
theorem performReq_configuration (r : PushReq) (s : State) :
    (performReq r s).reg.configuration = s.reg.configuration := by
  obtain ⟨-, hq⟩ | ⟨-, -, hq⟩ | ⟨-, -, hq⟩ := performReq_cases r s <;> rw [hq, respond_reg]
  all_goals
    split_ifs
    all_goals rfl

theorem perform_configuration (s : State) : (perform s).reg.configuration = s.reg.configuration := by
  obtain ⟨-, hq⟩ | ⟨-, r, -, -, hq⟩ := perform_cases s <;> rw [hq]
  exact performReq_configuration r _

/-- The one step out of RUNNING that changes these registers is the reset, which ends the session. -/
theorem step_configuration {s t : State} (h : step s = .next t) (hrun : s.syn.state = .running)
    (hstays : t.syn.state = .running) : t.reg.configuration = s.reg.configuration := by
  obtain ⟨-, rfl⟩ | ⟨s1, hn, rfl⟩ | ⟨s1, -, rfl⟩ | ⟨x, s1, i, hn, -, hx⟩ := step_cases h
  · rfl
  · rw [perform_configuration, nextEvent_reg hn]
  · cases hstays
  · obtain ⟨-, rest, -, rfl⟩ := nextEvent_some hn
    exact exec_configuration (s := { s with inbox := rest }) hx hrun

end Sys2Proof.Machine
end

section
/-! The statements of 70_reset_and_hazards.md. -/

namespace Sys2Proof.Machine

/-- Settles O46: every step that stays RUNNING keeps the configuration (`step_configuration`). -/
theorem configurationFixedWhileRunning : Obligations.ConfigurationFixedWhileRunning :=
  fun _ _ h hrun hstays => (configuration_eq_iff _ _).mp (step_configuration h hrun hstays)

/-- Settles O48: the next state is `resetBlock`, which is not RUNNING, so its TICK is the idle one. -/
theorem resetStepClearsBlock : Obligations.ResetStepClearsBlock := by
  intro s rest hin
  have hterm (hp : s.prd.pending ≠ none) :
      (resetBlock { s with inbox := rest }).trace.getLast? = some (.response .term) := by
    simp [hp]
  have htick := exec_tick_idle (s := resetBlock { s with inbox := rest }) nofun
  exact ⟨_, step_reset hin, hterm, rfl, rfl, rfl, rfl, irq_resetBlock _, htick⟩

/-- Settles O49: the fields that `resetBlock` carries over. -/
theorem resetKeepsModelFields : Obligations.ResetKeepsModelFields := by
  intro s t rest hin h
  cases (step_reset hin).symm.trans h
  exact ⟨resetBlock_params _, resetBlock_inbox _, terminatePending_trace _⟩

end Sys2Proof.Machine
end
